-- ==== Sys2Proof/Word.lean ====
section
/-! DEFINITION. The words the IK2270 wraps or sends as bits: bytes of frames, cadence numbers, head energy counters. -/

namespace Sys2Proof

/-- One byte of a frame on either link (11.1). -/
abbrev Byte := BitVec 8

/-- A cadence number or a stamp: a period number that wraps modulo 65,536 (R9). -/
abbrev Period := BitVec 16

/-- A head energy counter in joules, wrapping modulo 2^32 (5.2, R66). -/
abbrev Counter := BitVec 32

/-- A character on either line: its ten levels, the start bit first and most significant, the stop bit last (R202). -/
abbrev Character := BitVec 10

end Sys2Proof
end

