-- ==== Sys2Proof/Config.lean ====
section
/-! DEFINITION. What the part fixes: identity codes, depths of its queues, ceilings of its counters, ranges of its tables. The manual leaves no value of a step open, so there is no free value here. -/

namespace Sys2Proof.Config

/-- Vendor code (R190). -/
def vendorCode : Nat := 0x0E51

/-- Part code (R190). -/
def partCode : Nat := 0x2270

/-- Revision (R190). -/
def revision : Nat := 1

/-- The heads are numbered 1 to 32 (5.3). -/
def heads : Nat := 32

/-- The outlets of a head are numbered 0 to 47 (5.3). -/
def outletsPerHead : Nat := 48

/-- The tenants are numbered 1 to 127 (5.3). -/
def tenants : Nat := 127

/-- Entries of the Switch Queue (2.6, R34). -/
def switchQueueDepth : Nat := 16

/-- Entries of the Completion Queue (R198). -/
def completionDepth : Nat := 32

/-- Entries of the Summary Queue (R199). -/
def summaryDepth : Nat := 32

/-- Entries of the Forward Queue (R200). -/
def forwardDepth : Nat := 32

/-- Closed breaches the breach log holds (R126). -/
def breachLogDepth : Nat := 4

/-- Ceiling of every energy accumulator, 2^48 − 1 J (R57, R59, R102, R106). -/
def energyMax : Nat := 281474976710655

/-- Ceiling of a rate sum and of the unit bind counter, 2^32 − 1 (R39, R58). -/
def wordMax : Nat := 4294967295

/-- Clamp of reported demand, rate and check values, 16,777,215 W (5.2). -/
def wattMax : Nat := 16777215

/-- Ceiling of frame error and silence counts (2.4). -/
def byteMax : Nat := 255

/-- Ceiling of an outlet's discontinuity count (3.1). -/
def discontinuityMax : Nat := 15

/-- Ceiling of the forward drop count (R200). -/
def dropMax : Nat := 65535

/-- REFCLK cycles in one tick (R1). -/
def prescalerCycles : Nat := 40960

/-- Ticks in one second: the period countdown is IL × 100 (R5, R7). -/
def ticksPerSecond : Nat := 100

/-- Ticks after which a reply wait closes (R20). -/
def replyWaitTicks : Nat := 2

/-- Ticks after which a reply window closes (R186). -/
def replyWindowTicks : Nat := 5

/-- Ticks of idle line that make the idle gap (R197). -/
def idleGapTicks : Nat := 2

/-- Elapsed periods from which a reading is a gap (R65). -/
def gapPeriods : Nat := 256

/-- Age at which an awaiting outlet has reached the confirmation limit (R153, R157). -/
def confirmLimit : Nat := 3

/-- Bytes of the longest valid reply frame of a head (R16, R203). -/
def replyFrameMax : Nat := 295

/-- Bytes of the shortest valid reply frame of a head (R16, R203). -/
def replyFrameMin : Nat := 7

/-- Entries from which an annotated copy is sent as two frames (R205). -/
def forwardSplitFrom : Nat := 32

/-- Entries that part 1 of a split copy carries (R205). -/
def forwardPartOne : Nat := 24

end Sys2Proof.Config
end

