-- ==== Sys2Proof/Syntax.lean ====
section
/-! DEFINITION. The commands of the block: one constructor of `Instr` for each row of spec/opcode_table.json, with its operands. -/

namespace Sys2Proof

/-- The fields of CONFIGURE-UNIT as the order carries them, each any number its bytes can hold (R2, 11.5). -/
structure UnitFields where
  il : Nat
  voltA : Nat
  voltB : Nat
  staleLimit : Nat
  lostLimit : Nat
  restoreCount : Nat
  threshold : Nat
  forwardMode : Nat
  deriving DecidableEq, Repr

/-- The fields of BIND-OUTLET as the order carries them (R44, 11.5); an entry of the share list is a tenant number and a share. -/
structure BindFields where
  head : Nat
  outlet : Nat
  feed : Nat
  current : Nat
  priority : Nat
  entries : List (Nat × Nat)
  deriving DecidableEq, Repr

/-- The fields of SET-CONTRACT as the order carries them (R85, 11.5). -/
structure ContractFields where
  cls : Nat
  capacity1 : Nat
  capacity2 : Nat
  burstPercent : Nat
  hysteresis : Nat
  demandGrace : Nat
  burstGrace : Nat
  easeCount : Nat
  bucketLength : Nat
  buckets : Nat
  windowMode : Nat
  action : Nat
  delayCode : Nat
  source : Nat
  summary : Nat
  mask : BitVec 16
  deriving DecidableEq, Repr

/-- Which value an evaluation judges: the one pooled value, or that of feed A or feed B (R116). -/
inductive Scope where
  | pooled
  | feedA
  | feedB
  deriving DecidableEq, Repr

/-- What TL hands ES for one evaluated feed at step 6 of a settle: the burst value, the demand limit and the demand exit threshold (R128). -/
structure HandedFeed where
  scope : Scope
  value : Nat
  limit : Nat
  exit : Nat
  deriving DecidableEq, Repr

/-- The commands: the steps of the part, one for each row of the table, in its order. -/
inductive Instr where
  /-- POWER_ON: power is applied, with the levels of the straps at the end of the reset (R206). -/
  | powerOn (uaddr : BitVec 4) (service : Bool)
  /-- PIN_RESET: RST_N goes low and high again, with the levels of the straps at its end (R206). -/
  | pinReset (uaddr : BitVec 4) (service : Bool)
  /-- TICK (R1). -/
  | tick
  /-- CADENCE_EXPIRY (R8). -/
  | cadenceExpiry
  /-- SYNC (R17). -/
  | sync
  /-- SWITCH (R19). -/
  | switch
  /-- POLL (R20). -/
  | poll
  /-- PROBE (R21). -/
  | probe
  /-- REPLY_WAIT_CLOSE (R20). -/
  | replyWaitClose
  /-- REPLY_FRAME: the characters of one frame of a head, as the line carried them, at least one (R16, R24, R202). -/
  | replyFrame (first : Character) (rest : List Character)
  /-- STRAY_FRAME (R14). -/
  | strayFrame
  /-- ROUND_END (R22). -/
  | roundEnd
  /-- DELIVERY_TAKE: to the end of the delivery, or, with a number, over so many of the records that are left; other commands can then fall
  between two of its records (R43, R61, log entry 24). -/
  | deliveryTake (records : Option Nat := none)
  /-- CLOSE (R78). -/
  | close
  /-- ARM_EXPIRY for a tenant, with what TL hands ES at that settle (R150). -/
  | armExpiry (tenant : Nat) (handed : List HandedFeed)
  /-- SHED_FAILED for a tenant, with what TL hands ES at that settle (R153). -/
  | shedFailed (tenant : Nat) (handed : List HandedFeed)
  /-- RESTORE_LIMIT for a tenant (R157). -/
  | restoreLimit (tenant : Nat)
  /-- TRUNK_FRAME: the characters received on the trunk, at least one (R180, R181, R202). -/
  | trunkFrame (first : Character) (rest : List Character)
  /-- REPLY_WINDOW_EXPIRY (R186). -/
  | replyWindowExpiry
  /-- REPLY_START (R187). -/
  | replyStart
  /-- FRAME_TRANSMIT_END (R187). -/
  | frameTransmitEnd
  /-- ARBITRATION_LOST: a read-back mismatch, within the header or after it (R197). -/
  | arbitrationLost (inHeader : Bool)
  /-- IDLE_GAP (R197). -/
  | idleGap
  /-- IDENTIFY (R190). -/
  | identify (tag : Byte)
  /-- RESET_UNIT with its option code (R193). -/
  | resetUnit (tag : Byte) (option : Nat)
  /-- FULL_RESET (R194). -/
  | fullReset
  /-- ACCOUNTS_RESET (R195). -/
  | accountsReset
  /-- BROADCAST_HALT (R188). -/
  | broadcastHalt
  /-- BROADCAST_RESET_UNIT with its option code (R188). -/
  | broadcastResetUnit (option : Nat)
  /-- LOCK_GROUPS with its group mask (R191). -/
  | lockGroups (tag : Byte) (mask : BitVec 16)
  /-- UNLOCK_GROUPS with its group mask (R192). -/
  | unlockGroups (tag : Byte) (mask : BitVec 16)
  /-- CONFIGURE_UNIT (R2). -/
  | configureUnit (tag : Byte) (fields : UnitFields)
  /-- START (R3). -/
  | start (tag : Byte)
  /-- HALT (R10). -/
  | halt (tag : Byte)
  /-- FORGET_HEAD (R32). -/
  | forgetHead (tag : Byte) (head : Nat)
  /-- BIND_OUTLET (R44, R45). -/
  | bindOutlet (tag : Byte) (fields : BindFields)
  /-- ALTER_OUTLET (R46, R47). -/
  | alterOutlet (tag : Byte) (head outlet current priority : Nat)
  /-- RELEASE_OUTLET (R48). -/
  | releaseOutlet (tag : Byte) (head outlet : Nat)
  /-- READ_OUTLET (R53). -/
  | readOutlet (tag : Byte) (head outlet : Nat)
  /-- SET_CONTRACT (R85). -/
  | setContract (tag : Byte) (tenant : Nat) (fields : ContractFields)
  /-- HOLD_TENANT (R90). -/
  | holdTenant (tag : Byte) (tenant : Nat)
  /-- RESUME_TENANT (R91). -/
  | resumeTenant (tag : Byte) (tenant : Nat)
  /-- CLOSE_TENANT (R95). -/
  | closeTenant (tag : Byte) (tenant : Nat)
  /-- STATEMENT with the clear-peak byte (R93). -/
  | statement (tag : Byte) (tenant clearPeak : Nat)
  /-- RESET_TENANT (R97). -/
  | resetTenant (tag : Byte) (tenant : Nat)
  /-- RESTORE_OUTLETS (R156). -/
  | restoreOutlets (tag : Byte) (tenant : Nat)
  /-- ACK_NOTICE with the source and the set of causes (R172). -/
  | ackNotice (tag : Byte) (source : Nat) (causes : BitVec 16)
  /-- SET_NOTICE_MASK (R175). -/
  | setNoticeMask (tag : Byte) (mask : BitVec 16)
  /-- TRUNK_RECEPTION_IDLE_END (R180). -/
  | trunkReceptionIdleEnd
  deriving DecidableEq, Repr

end Sys2Proof
end

