-- ==== Sys2Proof/Decode.lean ====
section
/-! DEFINITION. The command a table word spells (none: no row of the table gives bits), and the order an ORDER payload spells (11.5). -/

namespace Sys2Proof

/-- The command a word of the opcode table spells. No row of spec/opcode_table.json gives a fixed bit or a field, so no word spells one (log entry 19). -/
def decodeTableWord (_nbits _w : Nat) : Option Instr := none

/-- A number sent most significant byte first (5.7). -/
def beNat (bytes : List Byte) : Nat := bytes.foldl (fun acc b => acc * 256 + b.toNat) 0

/-- The share-list entries of BIND-OUTLET, three bytes each (11.5); none when the bytes are not 3n. -/
def decodeEntries : Nat → List Byte → Option (List (Nat × Nat))
  | 0, [] => some []
  | n + 1, t :: hi :: lo :: rest => (decodeEntries n rest).map fun es => (t.toNat, beNat [hi, lo]) :: es
  | _, _ => none

/-- The order codes of the catalogue (11.5). -/
def orderCodes : List Nat :=
  [0x01, 0x02, 0x03, 0x04, 0x10, 0x11, 0x12, 0x20, 0x30, 0x31, 0x32, 0x33, 0x40, 0x41, 0x42, 0x43, 0x44, 0x45, 0x50, 0x60, 0x61]

/-- CONFIGURE-UNIT read from its 11 parameter bytes (11.5). -/
def decodeConfigure (tag : Byte) : List Byte → Option Instr
  | [il, a1, a0, b1, b0, s, lost, r, t1, t0, fwd] =>
      some (.configureUnit tag
        { il := il.toNat, voltA := beNat [a1, a0], voltB := beNat [b1, b0], staleLimit := s.toNat,
          lostLimit := lost.toNat, restoreCount := r.toNat, threshold := beNat [t1, t0], forwardMode := fwd.toNat })
  | _ => none

/-- BIND-OUTLET read from its 6 + 3n parameter bytes (11.5). -/
def decodeBind (tag : Byte) : List Byte → Option Instr
  | head :: outlet :: feed :: current :: priority :: n :: rest =>
      (decodeEntries n.toNat rest).map fun es =>
        .bindOutlet tag
          { head := head.toNat, outlet := outlet.toNat, feed := feed.toNat, current := current.toNat,
            priority := priority.toNat, entries := es }
  | _ => none

/-- SET-CONTRACT read from its 22 parameter bytes (11.5). -/
def decodeContract (tag : Byte) : List Byte → Option Instr
  | [t, cls, p2, p1, p0, q2, q1, q0, b, h, gd, gb, e, l, nb, mode, act, delay, src, sum, m1, m0] =>
      some (.setContract tag t.toNat
        { cls := cls.toNat, capacity1 := beNat [p2, p1, p0], capacity2 := beNat [q2, q1, q0], burstPercent := b.toNat,
          hysteresis := h.toNat, demandGrace := gd.toNat, burstGrace := gb.toNat, easeCount := e.toNat,
          bucketLength := l.toNat, buckets := nb.toNat, windowMode := mode.toNat, action := act.toNat, delayCode := delay.toNat,
          source := src.toNat, summary := sum.toNat, mask := BitVec.ofNat 16 (beNat [m1, m0]) })
  | _ => none

/-- An order with no parameter. -/
def decodeNone (i : Instr) : List Byte → Option Instr
  | [] => some i
  | _ => none

/-- An order with one parameter of one byte. -/
def decodeOne (f : Nat → Instr) : List Byte → Option Instr
  | [x] => some (f x.toNat)
  | _ => none

/-- An order with two parameters of one byte. -/
def decodeTwo (f : Nat → Nat → Instr) : List Byte → Option Instr
  | [x, y] => some (f x.toNat y.toNat)
  | _ => none

/-- An order with one mask of two bytes. -/
def decodeMask (f : BitVec 16 → Instr) : List Byte → Option Instr
  | [x, y] => some (f (BitVec.ofNat 16 (beNat [x, y])))
  | _ => none

/-- ALTER-OUTLET read from its four parameter bytes (11.5). -/
def decodeAlter (tag : Byte) : List Byte → Option Instr
  | [h, o, i, p] => some (.alterOutlet tag h.toNat o.toNat i.toNat p.toNat)
  | _ => none

/-- ACK-NOTICE read from its three parameter bytes (11.5). -/
def decodeAck (tag : Byte) : List Byte → Option Instr
  | [src, x, y] => some (.ackNotice tag src.toNat (BitVec.ofNat 16 (beNat [x, y])))
  | _ => none

/-- The order of a code and its parameter bytes; none for a code outside the catalogue and for a wrong length (R184). -/
def decodeOrder (tag : Byte) (code : Nat) (params : List Byte) : Option Instr :=
  if code = 0x01 then decodeNone (.identify tag) params
  else if code = 0x02 then decodeOne (.resetUnit tag) params
  else if code = 0x03 then decodeMask (.lockGroups tag) params
  else if code = 0x04 then decodeMask (.unlockGroups tag) params
  else if code = 0x10 then decodeConfigure tag params
  else if code = 0x11 then decodeNone (.start tag) params
  else if code = 0x12 then decodeNone (.halt tag) params
  else if code = 0x20 then decodeOne (.forgetHead tag) params
  else if code = 0x30 then decodeBind tag params
  else if code = 0x31 then decodeAlter tag params
  else if code = 0x32 then decodeTwo (.releaseOutlet tag) params
  else if code = 0x33 then decodeTwo (.readOutlet tag) params
  else if code = 0x40 then decodeContract tag params
  else if code = 0x41 then decodeOne (.holdTenant tag) params
  else if code = 0x42 then decodeOne (.resumeTenant tag) params
  else if code = 0x43 then decodeOne (.closeTenant tag) params
  else if code = 0x44 then decodeTwo (.statement tag) params
  else if code = 0x45 then decodeOne (.resetTenant tag) params
  else if code = 0x50 then decodeOne (.restoreOutlets tag) params
  else if code = 0x60 then decodeAck tag params
  else if code = 0x61 then decodeMask (.setNoticeMask tag) params
  else none

/-- The broadcast order of a code and its parameter bytes: HALT and RESET-UNIT of the right length alone (R188). -/
def decodeBroadcast (code : Nat) (params : List Byte) : Option Instr :=
  if code = 0x12 then decodeNone .broadcastHalt params
  else if code = 0x02 then decodeOne .broadcastResetUnit params
  else none

end Sys2Proof
end

