-- ==== Sys2Proof/Machine/State.lean ====
section
/-! DEFINITION. The state of the block: everything the chapters give CT, MLC, OT, OAE, FM, TL, ES, NU and TP, the queue of waiting commands, and the state after power-on. -/

namespace Sys2Proof.Machine

/-- A sparse table: keys strictly rising, no record equal to the one an unlisted key reads as (log entry 15). -/
abbrev Table (α : Type) := List (Nat × α)

/-! ### Shared names -/

/-- The two supply feeds. -/
inductive Feed where
  | a
  | b
  deriving DecidableEq, Repr

/-- A set of feeds: the feeds over of an evaluation or of a breach; both members read BOTH (R116, R123). -/
structure FeedSet where
  a : Bool
  b : Bool
  deriving DecidableEq, Repr

/-- The switch state of an outlet (3.1). -/
inductive SwitchState where
  | on
  | off
  | unknown
  deriving DecidableEq, Repr

/-- The direction of a switch order (2.6). -/
inductive Direction where
  | off
  | on
  deriving DecidableEq, Repr

/-- An outlet address head.outlet (5.3). -/
structure OutletAddr where
  head : Nat
  outlet : Nat
  deriving DecidableEq, Repr

/-! ### CT, Cadence Timer -/

/-- The unit run states (1.3). -/
inductive RunState where
  | config
  | running
  | halted
  deriving DecidableEq, Repr

/-- The unit configuration record (1.2). -/
structure UnitConfig where
  il : Nat
  voltA : Nat
  voltB : Nat
  staleLimit : Nat
  lostLimit : Nat
  restoreCount : Nat
  threshold : Nat
  forwardAll : Bool
  deriving DecidableEq, Repr

/-- The state of CT (R12); `expiriesDue` counts the cadence expiries that ticks have reached and CADENCE_EXPIRY has not taken (log entry 5). -/
structure CadenceTimer where
  prescaler : Nat
  runState : RunState
  n : Period
  countdown : Option Nat
  collectingOpen : Bool
  configured : Bool
  config : UnitConfig
  expiriesDue : Nat
  deriving DecidableEq, Repr

/-! ### MLC, Meter Link Controller -/

/-- The states of a Head Table entry (2.4). -/
inductive HeadState where
  | absent
  | present
  | silent
  | lost
  deriving DecidableEq, Repr

/-- The two feed flags of a reply frame; set reports the feed present (11.2). -/
structure FeedFlags where
  a : Bool
  b : Bool
  deriving DecidableEq, Repr

/-- A Head Table entry (2.4). -/
structure HeadEntry where
  state : HeadState
  lastSeq : Option Byte
  lastStamp : Option Period
  errorCount : Nat
  silence : Nat
  lastFlags : Option FeedFlags
  deriving DecidableEq, Repr

/-- The phases of a poll round (R18): `idle` is no round, `complete` a round that has done all its work. The SYNC phase is the step SYNC itself. -/
inductive RoundPhase where
  | idle
  | switch
  | poll
  | probe
  | complete
  deriving DecidableEq, Repr

/-- What the current round knows of an address (2.2). -/
inductive AddrMark where
  | notReached
  | answered
  | missed
  deriving DecidableEq, Repr

/-- What a reply wait was opened by (R20, R21). -/
inductive PollKind where
  | first
  | repoll
  | probe
  deriving DecidableEq, Repr

/-- An open reply wait: the address polled, by what, and the ticks signalled since it opened (R20). -/
structure ReplyWait where
  addr : Nat
  kind : PollKind
  ticks : Nat
  deriving DecidableEq, Repr

/-- The feed tally of a round (R33). -/
structure FeedTally where
  frames : Nat
  absentA : Nat
  absentB : Nat
  deriving DecidableEq, Repr

/-- A Switch Queue entry (2.6). -/
structure SwitchEntry where
  addr : OutletAddr
  direction : Direction
  tenant : Nat
  deriving DecidableEq, Repr

/-- The state of MLC. -/
structure MeterLink where
  heads : Table HeadEntry
  phase : RoundPhase
  walkPos : Nat
  pollPos : Nat
  repollDue : Option Nat
  wait : Option ReplyWait
  marks : Table AddrMark
  tally : FeedTally
  probePointer : Nat
  switchQueue : List SwitchEntry
  syncDue : Option Period
  roundEndDue : Bool
  lastSent : List Byte
  deriving DecidableEq, Repr

/-! ### OT, Outlet Table -/

/-- The bindings of an outlet (3.1). -/
inductive Binding where
  | unbound
  | bound
  | releasing
  deriving DecidableEq, Repr

/-- The baseline states of an outlet (R41). -/
inductive Baseline where
  | noBaseline
  | live
  | stale
  deriving DecidableEq, Repr

/-- An entry of a share list with its held rate in W (3.1). -/
structure ShareEntry where
  tenant : Nat
  share : Nat
  rate : Nat
  deriving DecidableEq, Repr

/-- An outlet record (3.1). The share rates are the rates of `shares`, or `unattributedRate` when UNBOUND. -/
structure Outlet where
  binding : Binding
  shares : List ShareEntry
  feed : Feed
  current : Nat
  priority : Nat
  bindSeq : Nat
  baseline : Baseline
  lastCounter : Counter
  lastStamp : Period
  unattributedRate : Nat
  switchState : SwitchState
  discontinuities : Nat
  shedMark : Bool
  completionOwed : Option Byte
  deriving DecidableEq, Repr

/-- The state of OT: the records, the unit bind counter (R39) and the count of BOUND records (R55). -/
structure OutletTable where
  outlets : Table Outlet
  bindCounter : Nat
  boundCount : Nat
  deriving DecidableEq, Repr

/-! ### OAE, Attribution Engine -/

/-- What OAE keeps of one tenant (4.1), with the condition of R77. -/
structure Account where
  accA : Nat
  accB : Nat
  rateA : Nat
  rateB : Nat
  incomplete : Bool
  lastIncomplete : Bool
  deriving DecidableEq, Repr

/-- An outlet record of a reply frame (11.2). -/
structure MeterRecord where
  outlet : Nat
  switchState : SwitchState
  counter : Counter
  deriving DecidableEq, Repr

/-- A delivery: the records of one accepted frame in frame order (R26, R61). -/
structure Delivery where
  head : Nat
  stamp : Period
  records : List MeterRecord
  deriving DecidableEq, Repr

/-- The flags OAE puts on a record of a copy (R73). -/
inductive RecordFlag where
  | normal
  | baseline
  | gap
  | discontinuity
  | unbound
  deriving DecidableEq, Repr

/-- A record of an annotated copy (R201). -/
structure ForwardEntry where
  outlet : Nat
  switchState : SwitchState
  flag : RecordFlag
  primary : Nat
  delta : Nat
  deriving DecidableEq, Repr

/-- A delivery that OAE has begun to take: the records left, and the annotations made so far (R43, R61, R73). -/
structure Taking where
  head : Nat
  stamp : Period
  rest : List MeterRecord
  entries : List ForwardEntry
  deriving DecidableEq, Repr

/-- The states of a feed (7.1). -/
inductive FeedState where
  | present
  | lost
  | returning
  deriving DecidableEq, Repr

/-- The states of the two feeds, as FM hands them to OAE (R137). -/
structure FeedStates where
  a : FeedState
  b : FeedState
  deriving DecidableEq, Repr

/-- A close in progress: its period, and the feed states that FM has handed for it, none until FM has judged the tally of the round that its expiry
ended (R78, R131, R137, log entry 33). -/
structure WaitingClose where
  period : Period
  feeds : Option FeedStates
  deriving DecidableEq, Repr

/-- The state of OAE; `taking` is the delivery OAE is taking, `closes` holds the closes in progress, oldest first (R61, R78). -/
structure AttributionEngine where
  accounts : Table Account
  unattributed : Nat
  deliveries : List Delivery
  taking : Option Taking
  closes : List WaitingClose
  deriving DecidableEq, Repr

/-! ### FM, Feed Monitor -/

/-- What FM holds of one feed (7.1). -/
structure FeedWatch where
  state : FeedState
  count : Nat
  deriving DecidableEq, Repr

/-- The state of FM. -/
structure FeedMonitor where
  a : FeedWatch
  b : FeedWatch
  deriving DecidableEq, Repr

/-! ### TL, Tenant Ledger -/

/-- The states of a tenant (5.2). -/
inductive TenantState where
  | vacant
  | active
  | held
  | closing
  deriving DecidableEq, Repr

/-- The capacity model of a tenant (5.3). -/
inductive TenantClass where
  | pooled
  | perFeed
  deriving DecidableEq, Repr

/-- How the demand window moves (5.3). -/
inductive WindowMode where
  | rolling
  | block
  deriving DecidableEq, Repr

/-- What a trigger does in stage IDLE (5.3). -/
inductive EscalationAction where
  | noticeOnly
  | delayedShed
  | immediateShed
  deriving DecidableEq, Repr

/-- The window fields of a contract (5.3). -/
structure WindowFields where
  cls : TenantClass
  bucketLength : Nat
  buckets : Nat
  mode : WindowMode
  deriving DecidableEq, Repr

/-- The limit fields of a contract (5.3); `sourceBoth` is the escalation source DEMAND_OR_BURST. -/
structure LimitFields where
  capacity1 : Nat
  capacity2 : Nat
  burstPercent : Nat
  hysteresis : Nat
  demandGrace : Nat
  burstGrace : Nat
  easeCount : Nat
  action : EscalationAction
  delayCode : Nat
  sourceBoth : Bool
  summary : Bool
  mask : BitVec 16
  deriving DecidableEq, Repr

/-- A contract in force. -/
structure Contract where
  window : WindowFields
  limits : LimitFields
  deriving DecidableEq, Repr

/-- The bucket in progress (6.1). -/
structure Bucket where
  energyA : Nat
  energyB : Nat
  count : Nat
  incomplete : Bool
  deriving DecidableEq, Repr

/-- An entry of the demand ring (R107). -/
structure RingEntry where
  energyA : Nat
  energyB : Nat
  incomplete : Bool
  endPeriod : Period
  deriving DecidableEq, Repr

/-- A computed demand: D and 0 for POOLED, D_A and D_B for PER_FEED, with its period (R111). -/
structure DemandValue where
  cls : TenantClass
  value1 : Nat
  value2 : Nat
  period : Period
  deriving DecidableEq, Repr

/-- The peak demand (R112). -/
structure PeakDemand where
  watts : Nat
  period : Period
  deriving DecidableEq, Repr

/-- The states of an exceedance machine (6.5). -/
inductive MachineState where
  | clear
  | pending
  | breach
  | easing
  deriving DecidableEq, Repr

/-- An open breach (6.5). -/
structure OpenBreach where
  start : Period
  peak : Nat
  feeds : FeedSet
  shed : Bool
  deriving DecidableEq, Repr

/-- An exceedance machine (6.5). -/
structure ExceedanceMachine where
  state : MachineState
  count : Nat
  breach : Option OpenBreach
  deriving DecidableEq, Repr

/-- The two exceedance machines of a tenant. -/
inductive MachineKind where
  | demand
  | burst
  deriving DecidableEq, Repr

/-- How a breach ended (R126). -/
inductive BreachOutcome where
  | cleared
  | shed
  | held
  | reset
  deriving DecidableEq, Repr

/-- A closed breach in the breach log (R126). -/
structure ClosedBreach where
  kind : MachineKind
  feeds : FeedSet
  start : Period
  duration : Nat
  peak : Nat
  outcome : BreachOutcome
  deriving DecidableEq, Repr

/-- The three tallies of a restore (8.1): unmarked by confirmation, found already on, unmarked at the limit. -/
structure Tallies where
  confirmed : Nat
  alreadyOn : Nat
  atLimit : Nat
  deriving DecidableEq, Repr

/-- The outcomes of a completion (11.4). -/
inductive CompletionOutcome where
  | released
  | releasedWhileOff
  | stated
  | closed
  | abandoned
  | restored
  | partialRestore
  deriving DecidableEq, Repr

/-- The long orders a tenant's slot can hold (R92). -/
inductive LongOrder where
  | statement
  | closeTenant
  | restoreOutlets
  deriving DecidableEq, Repr

/-- The long-order slot (5.1); the tallies of an owed completion are held for RESTORE-OUTLETS alone. -/
inductive LongSlot where
  | empty
  | statement (tag : Byte) (clearPeak : Bool)
  | closeTenant (tag : Byte)
  | restoreOutlets (tag : Byte)
  | owed (order : LongOrder) (tag : Byte) (outcome : CompletionOutcome) (tallies : Option Tallies)
  deriving DecidableEq, Repr

/-- A tenant record (5.1); `allowanceHeld` is the condition of R142. -/
structure Tenant where
  state : TenantState
  stateBeforeClose : Option TenantState
  contract : Option Contract
  pendingLimits : Option LimitFields
  lifetimeA : Nat
  lifetimeB : Nat
  bucket : Bucket
  ring : List RingEntry
  lastDemand : Option DemandValue
  peak : Option PeakDemand
  burst : ExceedanceMachine
  demand : ExceedanceMachine
  breachLog : List ClosedBreach
  coveredFeed : Option Feed
  allowanceTail : Nat
  allowanceHeld : Bool
  lastSettled : Option Period
  slot : LongSlot
  deriving DecidableEq, Repr

/-- The state of TL: the records and the count of tenants that are not VACANT (R84). -/
structure Ledger where
  tenants : Table Tenant
  count : Nat
  deriving DecidableEq, Repr

/-! ### ES, Enforcement Sequencer -/

/-- The escalation stages (8.1). -/
inductive Stage where
  | idle
  | armed
  | shedding
  | shedHold
  | restoring
  deriving DecidableEq, Repr

/-- The outlet awaiting confirmation (8.1). -/
structure Awaiting where
  addr : OutletAddr
  direction : Direction
  age : Nat
  deriving DecidableEq, Repr

/-- What ES keeps of one tenant (8.1). -/
structure Escalation where
  stage : Stage
  countdown : Option Nat
  shedOrder : List OutletAddr
  awaiting : Option Awaiting
  cursor : Option OutletAddr
  failed : List OutletAddr
  tallies : Option Tallies
  deriving DecidableEq, Repr

/-- The state of ES. -/
structure Sequencer where
  tenants : Table Escalation
  deriving DecidableEq, Repr

/-! ### NU, Notice Unit -/

/-- The cause set of a source (9.1), each part with the bits of 11.4. -/
structure CauseSet where
  latched : BitVec 16
  unreported : BitVec 16
  mask : BitVec 16
  deriving DecidableEq, Repr

/-- The state of NU. -/
structure NoticeUnit where
  unit : CauseSet
  tenants : Table CauseSet
  queue : List Nat
  deriving DecidableEq, Repr

/-! ### TP, Trunk Port -/

/-- The reply statuses (R185). -/
inductive Status where
  | done
  | accepted
  | busy
  | incorrectState
  | invalidParameter
  | locked
  | unknownOrder
  deriving DecidableEq, Repr

/-- A reply in the Reply slot (R185); `result` holds the bytes of 11.6 after the status. -/
structure Reply where
  tag : Byte
  code : Nat
  status : Status
  result : List Byte
  deriving DecidableEq, Repr

/-- The statement of a tenant (R94). -/
structure Statement where
  tenant : Nat
  period : Period
  state : TenantState
  cls : TenantClass
  capacity1 : Nat
  capacity2 : Nat
  lifetimeA : Nat
  lifetimeB : Nat
  ringEntries : Nat
  ringSumA : Nat
  ringSumB : Nat
  ringIncomplete : Nat
  lastDemand : Option DemandValue
  peak : Option PeakDemand
  burstState : MachineState
  burstCount : Nat
  demandState : MachineState
  demandCount : Nat
  breachLog : List ClosedBreach
  stage : Stage
  coveredFeed : Option Feed
  allowanceTail : Nat
  deriving DecidableEq, Repr

/-- The body of a completion (11.7). -/
inductive CompletionBody where
  | release (addr : OutletAddr)
  | statement (body : Statement)
  | tenant (tenant : Nat)
  | restore (tenant : Nat) (tallies : Tallies)
  deriving DecidableEq, Repr

/-- A completion (R198). -/
structure Completion where
  code : Nat
  tag : Byte
  outcome : CompletionOutcome
  body : CompletionBody
  deriving DecidableEq, Repr

/-- A summary record (R103). -/
structure Summary where
  tenant : Nat
  period : Period
  energyA : Nat
  energyB : Nat
  rateA : Nat
  rateB : Nat
  demand : Option DemandValue
  burstState : MachineState
  demandState : MachineState
  stage : Stage
  incomplete : Bool
  deriving DecidableEq, Repr

/-- The kinds of the last reset (R189). -/
inductive ResetCause where
  | powerOn
  | resetPin
  | orderFull
  | orderAccounts
  deriving DecidableEq, Repr

/-- A notice as NU builds it (R169); the reset cause stands in the unit's notices alone. -/
structure Notice where
  source : Nat
  period : Period
  latched : BitVec 16
  unreported : BitVec 16
  resetCause : Option ResetCause
  deriving DecidableEq, Repr

/-- A meter frame copy waiting for its annotations (R200). -/
structure PendingCopy where
  head : Nat
  stamp : Period
  flags : FeedFlags
  records : List MeterRecord
  deriving DecidableEq, Repr

/-- An annotated copy (R201). -/
structure ForwardFrame where
  head : Nat
  stamp : Period
  flags : FeedFlags
  entries : List ForwardEntry
  deriving DecidableEq, Repr

/-- The part of a METER_FORWARD copy that is sent next (R205). -/
inductive ForwardPart where
  | whole
  | first
  | second
  deriving DecidableEq, Repr

/-- The frame in hand (R196). -/
inductive UpFrame where
  | completion (c : Completion)
  | notice (n : Notice)
  | summary (r : Summary)
  | forward (f : ForwardFrame) (part : ForwardPart)
  deriving DecidableEq, Repr

/-- What the transmitter is sending (R196). -/
inductive Sending where
  | nothing
  | reply
  | inHand
  deriving DecidableEq, Repr

/-- The order path (R183): free, an order with its owner, or a reply that waits or is being sent. -/
inductive OrderPath where
  | free
  | atOwner (order : Instr)
  | replying
  deriving DecidableEq, Repr

/-- The two resets of RESET-UNIT (5.5). -/
inductive ResetKind where
  | full
  | accounts
  deriving DecidableEq, Repr

/-- The reply window: its address, its ticks, and whether the order in this unit's order path opened it (R186, log entry 18). -/
structure ReplyWindow where
  addr : BitVec 4
  ticks : Nat
  own : Bool
  deriving DecidableEq, Repr

/-- The state of TP: `rx` holds the characters of the reception in progress (R180), `prompt` whether the Reply slot was filled while the
window of its order was open and the reply has not lost the line since (R187), `reset` the reset that takes effect when the reply's
transmission ends (R193). -/
structure TrunkPort where
  rx : Option (List Character)
  path : OrderPath
  slot : Option Reply
  prompt : Bool
  broadcasts : List Instr
  reset : Option ResetKind
  window : Option ReplyWindow
  idleTicks : Nat
  sending : Sending
  inHand : Option UpFrame
  completions : List Completion
  summaries : List Summary
  forwards : List ForwardFrame
  copies : List PendingCopy
  dropCount : Nat
  lockMap : BitVec 16
  unitAddr : BitVec 4
  service : Bool
  resetCause : ResetCause
  lastSent : List Byte
  deriving DecidableEq, Repr

/-! ### The whole state -/

/-- The state of the block and the queue of the commands that wait. -/
structure State where
  ct : CadenceTimer
  mlc : MeterLink
  ot : OutletTable
  oae : AttributionEngine
  fm : FeedMonitor
  tl : Ledger
  es : Sequencer
  nu : NoticeUnit
  tp : TrunkPort
  pending : List Instr
  deriving DecidableEq, Repr

/-- The reasons a step can stop with a fault: none, because the manual names no event that stops the device. -/
inductive Fault where
  deriving DecidableEq, Repr

/-- The reasons a step can be refused. -/
inductive Refusal where
  /-- Raised by `exec` alone, for a command that has no meaning yet; safe: nothing can be proved of a run past it. -/
  | notModelled (mnemonic : String)
  deriving DecidableEq, Repr

/-! ### Values after power-on -/

/-- The unit configuration record after power-on (1.2). -/
def UnitConfig.initial : UnitConfig :=
  { il := 1, voltA := 230, voltB := 230, staleLimit := 3, lostLimit := 10, restoreCount := 5, threshold := 0, forwardAll := false }

/-- CT after power-on (R12). -/
def CadenceTimer.initial : CadenceTimer :=
  { prescaler := 0, runState := .config, n := 0, countdown := none, collectingOpen := false, configured := false,
    config := UnitConfig.initial, expiriesDue := 0 }

/-- A Head Table entry after power-on, and every unlisted one (R28). -/
def HeadEntry.initial : HeadEntry :=
  { state := .absent, lastSeq := none, lastStamp := none, errorCount := 0, silence := 0, lastFlags := none }

/-- The empty feed tally (R33). -/
def FeedTally.initial : FeedTally := { frames := 0, absentA := 0, absentB := 0 }

/-- MLC after power-on (R21, R23, R28, R36). -/
def MeterLink.initial : MeterLink :=
  { heads := [], phase := .idle, walkPos := 0, pollPos := 1, repollDue := none, wait := none, marks := [],
    tally := FeedTally.initial, probePointer := 32, switchQueue := [], syncDue := none, roundEndDue := false, lastSent := [] }

/-- An outlet record after power-on, and every unlisted one (R40). -/
def Outlet.initial : Outlet :=
  { binding := .unbound, shares := [], feed := .a, current := 63, priority := 0, bindSeq := 0, baseline := .noBaseline,
    lastCounter := 0, lastStamp := 0, unattributedRate := 0, switchState := .unknown, discontinuities := 0,
    shedMark := false, completionOwed := none }

/-- OT after power-on (R39, R40, R55). -/
def OutletTable.initial : OutletTable := { outlets := [], bindCounter := 0, boundCount := 0 }

/-- A tenant's account after power-on, and every unlisted one (R82). -/
def Account.initial : Account :=
  { accA := 0, accB := 0, rateA := 0, rateB := 0, incomplete := false, lastIncomplete := false }

/-- OAE after power-on (R82). -/
def AttributionEngine.initial : AttributionEngine := { accounts := [], unattributed := 0, deliveries := [], taking := none, closes := [] }

/-- A feed after power-on (R130). -/
def FeedWatch.initial : FeedWatch := { state := .present, count := 0 }

/-- FM after power-on (R130). -/
def FeedMonitor.initial : FeedMonitor := { a := FeedWatch.initial, b := FeedWatch.initial }

/-- The empty bucket (R107). -/
def Bucket.initial : Bucket := { energyA := 0, energyB := 0, count := 0, incomplete := false }

/-- A machine in CLEAR (6.5). -/
def ExceedanceMachine.initial : ExceedanceMachine := { state := .clear, count := 0, breach := none }

/-- A tenant record after power-on, and every unlisted one (R104). -/
def Tenant.initial : Tenant :=
  { state := .vacant, stateBeforeClose := none, contract := none, pendingLimits := none, lifetimeA := 0, lifetimeB := 0,
    bucket := Bucket.initial, ring := [], lastDemand := none, peak := none, burst := ExceedanceMachine.initial,
    demand := ExceedanceMachine.initial, breachLog := [], coveredFeed := none, allowanceTail := 0, allowanceHeld := false,
    lastSettled := none, slot := .empty }

/-- TL after power-on (R84, R104). -/
def Ledger.initial : Ledger := { tenants := [], count := 0 }

/-- A tenant's escalation after power-on, and every unlisted one (R144). -/
def Escalation.initial : Escalation :=
  { stage := .idle, countdown := none, shedOrder := [], awaiting := none, cursor := none, failed := [], tallies := none }

/-- ES after power-on (R144). -/
def Sequencer.initial : Sequencer := { tenants := [] }

/-- Every tenant cause, bits 0 to 10 (11.4). -/
def allTenantCauses : BitVec 16 := 0x07FF

/-- Every unit cause, bits 0 to 9 (11.4). -/
def allUnitCauses : BitVec 16 := 0x03FF

/-- The bit of RESTARTED in a unit cause set (11.4). -/
def restartedBit : BitVec 16 := 0x0008

/-- A tenant's cause set after power-on, and every unlisted one (R179). -/
def CauseSet.initial : CauseSet := { latched := 0, unreported := 0, mask := allTenantCauses }

/-- NU after power-on, pin reset and FULL: RESTARTED is latched and source 0 is queued (R178, R179). -/
def NoticeUnit.initial : NoticeUnit :=
  { unit := { latched := restartedBit, unreported := restartedBit, mask := allUnitCauses }, tenants := [], queue := [0] }

/-- TP after power-on with the straps all low (R189, R194; the straps: log entry 3). -/
def TrunkPort.initial : TrunkPort :=
  { rx := none, path := .free, slot := none, prompt := false, broadcasts := [], reset := none, window := none, idleTicks := 0,
    sending := .nothing, inHand := none, completions := [], summaries := [], forwards := [], copies := [], dropCount := 0,
    lockMap := 0, unitAddr := 0, service := false, resetCause := .powerOn, lastSent := [] }

/-- The block right after power-on, its straps all low, with nothing in the queue. -/
def State.reset : State :=
  { ct := CadenceTimer.initial, mlc := MeterLink.initial, ot := OutletTable.initial, oae := AttributionEngine.initial,
    fm := FeedMonitor.initial, tl := Ledger.initial, es := Sequencer.initial, nu := NoticeUnit.initial,
    tp := TrunkPort.initial, pending := [] }

end Sys2Proof.Machine
end

