-- ==== Sys2Proof/Machine/Ops.lean ====
section
/-! DEFINITION. The operations every block uses: sparse tables, saturating sums, the places of the state, the requests between blocks. -/

namespace Sys2Proof.Machine

/-- What a command answers. -/
abbrev Result : Type := Host.Outcome State Fault Refusal

/-! ### Sparse tables (log entry 15) -/

/-- The record at a key; an unlisted key reads as `d`. -/
def tableGet {α : Type} (d : α) : Table α → Nat → α
  | [], _ => d
  | (k', v) :: rest, k => if k' = k then v else tableGet d rest k

/-- A record put at a key, the keys kept rising. -/
def tableInsert {α : Type} (k : Nat) (v : α) : Table α → Table α
  | [] => [(k, v)]
  | (k', v') :: rest =>
    if k < k' then (k, v) :: (k', v') :: rest
    else if k = k' then (k, v) :: rest
    else (k', v') :: tableInsert k v rest

/-- The table without a key. -/
def tableErase {α : Type} (k : Nat) (t : Table α) : Table α := t.filter fun p => p.1 != k

/-- A record written at a key; writing what an unlisted key reads as removes the entry. -/
def tableSet {α : Type} [DecidableEq α] (d : α) (t : Table α) (k : Nat) (v : α) : Table α :=
  if v = d then tableErase k t else tableInsert k v t

/-- Every listed record changed by `f`; an `f` that keeps `d` so changes the record of every key. -/
def tableMap {α : Type} [DecidableEq α] (d : α) (f : Nat → α → α) (t : Table α) : Table α :=
  t.foldr (fun p acc => tableSet d acc p.1 (f p.1 p.2)) []

/-- The canonical form: keys strictly rising and no record equal to the unlisted one. -/
abbrev tableWf {α : Type} [DecidableEq α] (d : α) (t : Table α) : Prop :=
  (t.map Prod.fst).Pairwise (· < ·) ∧ ∀ p ∈ t, p.2 ≠ d

/-! ### Arithmetic (5.2) -/

/-- A sum that saturates at `cap` and stays there. -/
def satAdd (cap a b : Nat) : Nat := min cap (a + b)

/-- A value clamped to 16,777,215 W. -/
def clampWatts (w : Nat) : Nat := min Config.wattMax w

/-! ### Numbers and addresses -/

/-- The place of an outlet in the Outlet Table; rising keys are rising addresses. -/
def OutletAddr.key (a : OutletAddr) : Nat := a.head * Config.outletsPerHead + a.outlet

/-- The address at a place of the Outlet Table. -/
def addrOfKey (k : Nat) : OutletAddr := { head := k / Config.outletsPerHead, outlet := k % Config.outletsPerHead }

/-- A head number that exists (5.3). -/
def validHead (h : Nat) : Bool := decide (1 ≤ h ∧ h ≤ Config.heads)

/-- An outlet address that exists (R37). -/
def validOutlet (h o : Nat) : Bool := validHead h && decide (o < Config.outletsPerHead)

/-- A tenant number that exists (R83). -/
def validTenant (t : Nat) : Bool := decide (1 ≤ t ∧ t ≤ Config.tenants)

/-- A union of feed sets; a set that has held A and B reads BOTH (R123). -/
def FeedSet.union (x y : FeedSet) : FeedSet := { a := x.a || y.a, b := x.b || y.b }

/-! ### The places of the state -/

def State.onCt (s : State) (f : CadenceTimer → CadenceTimer) : State := { s with ct := f s.ct }
def State.onMlc (s : State) (f : MeterLink → MeterLink) : State := { s with mlc := f s.mlc }
def State.onOt (s : State) (f : OutletTable → OutletTable) : State := { s with ot := f s.ot }
def State.onOae (s : State) (f : AttributionEngine → AttributionEngine) : State := { s with oae := f s.oae }
def State.onFm (s : State) (f : FeedMonitor → FeedMonitor) : State := { s with fm := f s.fm }
def State.onTl (s : State) (f : Ledger → Ledger) : State := { s with tl := f s.tl }
def State.onEs (s : State) (f : Sequencer → Sequencer) : State := { s with es := f s.es }
def State.onNu (s : State) (f : NoticeUnit → NoticeUnit) : State := { s with nu := f s.nu }
def State.onTp (s : State) (f : TrunkPort → TrunkPort) : State := { s with tp := f s.tp }

/-- The Head Table entry of an address. -/
def State.head (s : State) (a : Nat) : HeadEntry := tableGet HeadEntry.initial s.mlc.heads a

def State.setHead (s : State) (a : Nat) (e : HeadEntry) : State :=
  s.onMlc fun m => { m with heads := tableSet HeadEntry.initial m.heads a e }

/-- What the round knows of an address. -/
def State.mark (s : State) (a : Nat) : AddrMark := tableGet .notReached s.mlc.marks a

def State.setMark (s : State) (a : Nat) (v : AddrMark) : State :=
  s.onMlc fun m => { m with marks := tableSet .notReached m.marks a v }

/-- The outlet record at a place of the Outlet Table. -/
def State.outlet (s : State) (k : Nat) : Outlet := tableGet Outlet.initial s.ot.outlets k

def State.setOutlet (s : State) (k : Nat) (o : Outlet) : State :=
  s.onOt fun t => { t with outlets := tableSet Outlet.initial t.outlets k o }

/-- What OAE keeps of a tenant. -/
def State.account (s : State) (t : Nat) : Account := tableGet Account.initial s.oae.accounts t

def State.setAccount (s : State) (t : Nat) (a : Account) : State :=
  s.onOae fun o => { o with accounts := tableSet Account.initial o.accounts t a }

/-- The record of a tenant. -/
def State.tenant (s : State) (t : Nat) : Tenant := tableGet Tenant.initial s.tl.tenants t

def State.setTenant (s : State) (t : Nat) (r : Tenant) : State :=
  s.onTl fun l => { l with tenants := tableSet Tenant.initial l.tenants t r }

/-- What ES keeps of a tenant. -/
def State.esc (s : State) (t : Nat) : Escalation := tableGet Escalation.initial s.es.tenants t

def State.setEsc (s : State) (t : Nat) (e : Escalation) : State :=
  s.onEs fun q => { q with tenants := tableSet Escalation.initial q.tenants t e }

/-- The cause set of a tenant. -/
def State.causes (s : State) (t : Nat) : CauseSet := tableGet CauseSet.initial s.nu.tenants t

def State.setCauses (s : State) (t : Nat) (c : CauseSet) : State :=
  s.onNu fun n => { n with tenants := tableSet CauseSet.initial n.tenants t c }

/-- TK_DIR: high while the device drives the trunk pair (R206). -/
def State.tkDir (s : State) : Bool := decide (s.tp.sending ≠ .nothing)

/-! ### The lock map (R191) -/

/-- A tenant is locked while the bit of its group is set (R54, R83). -/
def State.locked (s : State) (t : Nat) : Bool := s.tp.lockMap.getLsbD (t / 8)

/-! ### Outlets and tenants -/

/-- An outlet that has a share list: BOUND or RELEASING (R38). -/
def Outlet.listed (o : Outlet) : Bool := decide (o.binding ≠ .unbound)

/-- An outlet whose share list names a tenant while BOUND or RELEASING (R77, R95). -/
def Outlet.names (o : Outlet) (t : Nat) : Bool := o.listed && o.shares.any fun e => e.tenant == t

/-- The tenants of a share list, in its order. -/
def Outlet.tenants (o : Outlet) : List Nat := o.shares.map ShareEntry.tenant

/-- Some outlet, BOUND or RELEASING, lists the tenant (R95). -/
def State.anyOutletNames (s : State) (t : Nat) : Bool := s.ot.outlets.any fun p => p.2.names t

/-- The nominal voltage of a feed (1.2). -/
def UnitConfig.voltage (c : UnitConfig) : Feed → Nat
  | .a => c.voltA
  | .b => c.voltB

/-- Each listed outlet that `which` picks out and whose baseline is LIVE or STALE becomes NO_BASELINE (R6, R32, R41). -/
def markNoBaseline (which : Nat → Bool) (s : State) : State :=
  s.onOt fun t => { t with outlets := tableMap Outlet.initial (fun k o => if which k then { o with baseline := .noBaseline } else o) t.outlets }

/-! ### Rate sums (R58) -/

/-- A held rate of a tenant on a feed goes from `old` to `new`; the sum follows (R58, R69). -/
def adjustRate (t : Nat) (f : Feed) (old new : Nat) (s : State) : State :=
  let a := s.account t
  s.setAccount t (match f with
    | .a => { a with rateA := min Config.wordMax (a.rateA + new - old) }
    | .b => { a with rateB := min Config.wordMax (a.rateB + new - old) })

/-- Every held rate of a share list leaves its tenant's rate sum (R50, R75, R76). -/
def removeRates (f : Feed) (shares : List ShareEntry) (s : State) : State :=
  shares.foldl (fun st e => adjustRate e.tenant f e.rate 0 st) s

/-- Energy credited to a tenant's collecting accumulator of a feed (R57, R68). -/
def credit (t : Nat) (f : Feed) (energy : Nat) (s : State) : State :=
  let a := s.account t
  s.setAccount t (match f with
    | .a => { a with accA := satAdd Config.energyMax a.accA energy }
    | .b => { a with accB := satAdd Config.energyMax a.accB energy })

/-- The incomplete mark of each tenant of a list is set (R60). -/
def markIncomplete (ts : List Nat) (s : State) : State :=
  ts.foldl (fun st t => st.setAccount t { st.account t with incomplete := true }) s

/-! ### The Switch Queue (R34, R35) -/

/-- How MLC answers an add request (R34). -/
inductive AddAnswer where
  | merged
  | refused
  | taken
  deriving DecidableEq, Repr

/-- MLC's answer to an add request, from the queue as it stands (R34). -/
def addAnswer (q : List SwitchEntry) (e : SwitchEntry) : AddAnswer :=
  if q.any (fun x => decide (x.addr = e.addr ∧ x.direction = e.direction)) then .merged
  else if Config.switchQueueDepth ≤ q.length then .refused
  else .taken

/-- The queue after an add request (R34). -/
def addEntry (q : List SwitchEntry) (e : SwitchEntry) : List SwitchEntry :=
  if addAnswer q e = .taken then q ++ [e] else q

/-- The add request of ES (R34). -/
def addRequest (e : SwitchEntry) (s : State) : State :=
  s.onMlc fun m => { m with switchQueue := addEntry m.switchQueue e }

/-- The place of the first entry, from `pos` on, whose head is PRESENT (R19). -/
def sendableFrom (heads : Table HeadEntry) (q : List SwitchEntry) (pos : Nat) : Option Nat :=
  ((q.drop pos).findIdx? fun e => decide ((tableGet HeadEntry.initial heads e.addr.head).state = .present)).map (pos + ·)

/-- An address that the poll phase still has to poll (R20). -/
def pollDue (m : MeterLink) (a : Nat) : Bool :=
  decide ((tableGet HeadEntry.initial m.heads a).state ≠ .absent ∧ tableGet .notReached m.marks a ≠ .answered)

/-- The next address the poll walk reaches that is due, at `pollPos` or above (R20). -/
def nextPoll (m : MeterLink) : Option Nat :=
  (List.range' m.pollPos (Config.heads + 1 - m.pollPos)).find? (pollDue m)

/-- The next ABSENT address above the probe pointer, wrapping from 32 to 1 (R21). -/
def nextProbe (m : MeterLink) : Option Nat :=
  (List.range' (m.probePointer + 1) (Config.heads - m.probePointer) ++ List.range' 1 (min m.probePointer Config.heads)).find?
    fun a => decide ((tableGet HeadEntry.initial m.heads a).state = .absent)

/-- The switch phase ends when its walk has passed the newest entry (R19). -/
def endSwitchPhase (m : MeterLink) : MeterLink :=
  if m.phase = .switch ∧ sendableFrom m.heads m.switchQueue m.walkPos = none then { m with phase := .poll, pollPos := 1 } else m

/-- The poll phase ends when no address is left to poll (R20). -/
def endPollPhase (m : MeterLink) : MeterLink :=
  if m.phase = .poll ∧ m.wait = none ∧ m.repollDue = none ∧ nextPoll m = none then { m with phase := .probe } else m

/-- The probe phase ends at once when no address is ABSENT (R21). -/
def endProbePhase (m : MeterLink) : MeterLink :=
  if m.phase = .probe ∧ m.wait = none ∧ nextProbe m = none then { m with phase := .complete } else m

/-- Each phase that has nothing left to do gives way to the next (R18, log entry 14). -/
def advancePhase (m : MeterLink) : MeterLink := endProbePhase (endPollPhase (endSwitchPhase m))

/-- A switch phase whose queue has become shorter ends if nothing is left in it to send; another phase goes on (R19, log entry 14). -/
def leaveSwitchPhase (m : MeterLink) : MeterLink := if m.phase = .switch then advancePhase m else m

/-- The Switch Queue without the entries that `gone` picks out; the switch walk keeps its place among the rest (R32, R35). -/
def removeEntries (gone : SwitchEntry → Bool) (m : MeterLink) : MeterLink :=
  { m with
    switchQueue := m.switchQueue.filter fun e => !gone e
    walkPos := ((m.switchQueue.take m.walkPos).filter fun e => !gone e).length }

/-- The withdraw request of ES: every OFF entry of the tenant leaves the queue (R35). -/
def withdrawRequest (t : Nat) (s : State) : State :=
  s.onMlc fun m => leaveSwitchPhase (removeEntries (fun e => decide (e.direction = .off ∧ e.tenant = t)) m)

/-! ### The Completion Queue (R198) -/

/-- The Completion Queue has room for one more. -/
def State.completionRoom (s : State) : Bool := decide (s.tp.completions.length < Config.completionDepth)

/-- A completion asked of TP: appended when there is room, otherwise refused and the queue unchanged (R198). -/
def placeCompletion (c : Completion) (s : State) : State :=
  if s.completionRoom then s.onTp fun p => { p with completions := p.completions ++ [c] } else s

/-! ### Order codes (11.5) -/

def codeResetUnit : Nat := 0x02
def codeHalt : Nat := 0x12
def codeReleaseOutlet : Nat := 0x32
def codeCloseTenant : Nat := 0x43
def codeStatement : Nat := 0x44
def codeRestoreOutlets : Nat := 0x50

/-- The order code of a long order (11.5). -/
def LongOrder.code : LongOrder → Nat
  | .statement => codeStatement
  | .closeTenant => codeCloseTenant
  | .restoreOutlets => codeRestoreOutlets

end Sys2Proof.Machine
end

