-- ==== Sys2Proof/Machine/Flags.lean ====
section
/-! DEFINITION. The Notice Unit: the latched causes of the unit and of each tenant, the conditions behind them, the Notice Queue (chapter 9). -/

namespace Sys2Proof.Machine

/-- The unit causes (9.2). -/
inductive UnitCause where
  | headLost
  | feedLost
  | unattributedDraw
  | restarted
  | headJoined
  | feedRestored
  | linkFault
  | trunkCheck
  | forwardLost
  | summaryLost
  deriving DecidableEq, Repr

/-- The tenant causes (9.2). -/
inductive TenantCause where
  | demandBreach
  | burstBreach
  | incompleteData
  | failoverAllowance
  | accumulatorSaturated
  | breachCleared
  | shedStarted
  | shedSettled
  | shedExhausted
  | shedFailed
  | outletSuspect
  deriving DecidableEq, Repr

/-- The bit of a unit cause in a cause set (11.4). -/
def UnitCause.bit : UnitCause → Nat
  | .headLost => 0
  | .feedLost => 1
  | .unattributedDraw => 2
  | .restarted => 3
  | .headJoined => 4
  | .feedRestored => 5
  | .linkFault => 6
  | .trunkCheck => 7
  | .forwardLost => 8
  | .summaryLost => 9

/-- The bit of a tenant cause in a cause set (11.4). -/
def TenantCause.bit : TenantCause → Nat
  | .demandBreach => 0
  | .burstBreach => 1
  | .incompleteData => 2
  | .failoverAllowance => 3
  | .accumulatorSaturated => 4
  | .breachCleared => 5
  | .shedStarted => 6
  | .shedSettled => 7
  | .shedExhausted => 8
  | .shedFailed => 9
  | .outletSuspect => 10

/-- The set of the one cause at a bit. -/
def causeBit (i : Nat) : BitVec 16 := 1#16 <<< i

/-- A latch on a cause set: a cause not latched joins the latched and the unreported part, a latched one changes nothing (R164). -/
def CauseSet.latch (c : CauseSet) (i : Nat) : CauseSet :=
  if c.latched.getLsbD i then c
  else { c with latched := c.latched ||| causeBit i, unreported := c.unreported ||| causeBit i }

/-- The unreported part holds a cause of the mask, so the source is owed a notice (R166). -/
def CauseSet.owed (c : CauseSet) : Bool := decide (c.unreported &&& c.mask ≠ 0#16)

/-- A source appended at the newest end of the Notice Queue unless it is in it (R166). -/
def enqueue (source : Nat) (q : List Nat) : List Nat := if source ∈ q then q else q ++ [source]

/-- The place of a source judged anew: it joins the queue when it is owed a notice and leaves it when it is not (R166, R173 step 3). -/
def requeue (source : Nat) (c : CauseSet) (q : List Nat) : List Nat :=
  if c.owed then enqueue source q else q.filter fun x => x != source

/-- The queue after a latch of the cause at bit `i` for a source whose set was `c` (R164). -/
def queueAfterLatch (source : Nat) (c : CauseSet) (i : Nat) (q : List Nat) : List Nat :=
  if c.latched.getLsbD i then q else if c.mask.getLsbD i then enqueue source q else q

/-- NU takes the latch of a unit cause (R164). -/
def latchUnit (c : UnitCause) (s : State) : State :=
  s.onNu fun n => { n with unit := n.unit.latch c.bit, queue := queueAfterLatch 0 n.unit c.bit n.queue }

/-- NU takes the latch of a tenant cause; a latch for a VACANT tenant is discarded (R164, R177). -/
def latchTenant (c : TenantCause) (t : Nat) (s : State) : State :=
  if (s.tenant t).state = .vacant then s
  else
    let old := s.causes t
    (s.setCauses t (old.latch c.bit)).onNu fun n => { n with queue := queueAfterLatch t old c.bit n.queue }

/-- The cause latched for each tenant of a list. -/
def latchTenants (c : TenantCause) (ts : List Nat) (s : State) : State :=
  ts.foldl (fun st t => latchTenant c t st) s

/-- The notice mask of a contract handed to NU (R176). -/
def setTenantMask (t : Nat) (mask : BitVec 16) (s : State) : State :=
  let c := { s.causes t with mask := mask }
  (s.setCauses t c).onNu fun n => { n with queue := requeue t c n.queue }

/-- NU at the passage of a tenant to VACANT: the source leaves the queue, its parts are emptied, its mask is every tenant cause (R177). -/
def vacateSource (t : Nat) (s : State) : State :=
  (s.setCauses t CauseSet.initial).onNu fun n => { n with queue := n.queue.filter fun x => x != t }

/-! ### The conditions the owners hold for NU (R165) -/

/-- Some head is LOST (R29). -/
def State.someHeadLost (s : State) : Bool := s.mlc.heads.any fun p => decide (p.2.state = .lost)

/-- Feed A or feed B is LOST or RETURNING (R136). -/
def State.someFeedDown (s : State) : Bool := decide (s.fm.a.state ≠ .present ∨ s.fm.b.state ≠ .present)

/-- Some UNBOUND outlet holds an unattributed rate above a nonzero threshold (R72). -/
def State.someUnattributedDraw (s : State) : Bool :=
  decide (s.ct.config.threshold ≠ 0) &&
    s.ot.outlets.any fun p => decide (p.2.binding = .unbound ∧ s.ct.config.threshold < p.2.unattributedRate)

/-- A machine is in BREACH or EASING (R125). -/
def ExceedanceMachine.inBreach (m : ExceedanceMachine) : Bool := decide (m.state = .breach ∨ m.state = .easing)

/-- The condition of a unit cause; an event cause has none, so it is never latched again (R165). -/
def State.unitCondition (s : State) : UnitCause → Bool
  | .headLost => s.someHeadLost
  | .feedLost => s.someFeedDown
  | .unattributedDraw => s.someUnattributedDraw
  | .restarted => false
  | .headJoined => false
  | .feedRestored => false
  | .linkFault => false
  | .trunkCheck => false
  | .forwardLost => false
  | .summaryLost => false

/-- The condition of a tenant cause (R165). -/
def State.tenantCondition (s : State) (t : Nat) : TenantCause → Bool
  | .demandBreach => (s.tenant t).demand.inBreach
  | .burstBreach => (s.tenant t).burst.inBreach
  | .incompleteData => (s.account t).lastIncomplete
  | .failoverAllowance => (s.tenant t).allowanceHeld
  | .accumulatorSaturated =>
      decide ((s.tenant t).lifetimeA = Config.energyMax ∨ (s.tenant t).lifetimeB = Config.energyMax)
  | .breachCleared => false
  | .shedStarted => false
  | .shedSettled => false
  | .shedExhausted => false
  | .shedFailed => false
  | .outletSuspect => false

/-- The unit's condition causes. -/
def unitConditionCauses : List UnitCause := [.headLost, .feedLost, .unattributedDraw]

/-- The tenants' condition causes. -/
def tenantConditionCauses : List TenantCause :=
  [.demandBreach, .burstBreach, .incompleteData, .failoverAllowance, .accumulatorSaturated]

/-! ### Acknowledgement (R173) -/

/-- The named causes leave the latched and the unreported part (R173 step 1). -/
def CauseSet.remove (c : CauseSet) (causes : BitVec 16) : CauseSet :=
  { c with latched := c.latched &&& ~~~causes, unreported := c.unreported &&& ~~~causes }

/-- An accepted acknowledgement for the unit: removal, the conditions that hold latched again, the place in the queue (R173). -/
def ackUnit (causes : BitVec 16) (s : State) : State :=
  let removed := s.onNu fun n => { n with unit := n.unit.remove causes }
  let relatched := (unitConditionCauses.filter fun c => causes.getLsbD c.bit && s.unitCondition c).foldl
    (fun st c => latchUnit c st) removed
  relatched.onNu fun n => { n with queue := requeue 0 n.unit n.queue }

/-- An accepted acknowledgement for a tenant (R173). -/
def ackTenant (t : Nat) (causes : BitVec 16) (s : State) : State :=
  let removed := s.setCauses t ((s.causes t).remove causes)
  let relatched := (tenantConditionCauses.filter fun c => causes.getLsbD c.bit && s.tenantCondition t c).foldl
    (fun st c => latchTenant c t st) removed
  relatched.onNu fun n => { n with queue := requeue t (relatched.causes t) n.queue }

/-- The unit's mask replaced and its place in the queue judged anew (R175). -/
def setUnitMask (mask : BitVec 16) (s : State) : State :=
  s.onNu fun n =>
    let c := { n.unit with mask := mask }
    { n with unit := c, queue := requeue 0 c n.queue }

/-! ### Building a notice (R169) -/

/-- The cause set of a source: the unit's for source 0. -/
def State.sourceSet (s : State) (source : Nat) : CauseSet := if source = 0 then s.nu.unit else s.causes source

/-- The notice of a source, from its sets as they stand (R169). -/
def buildNotice (source : Nat) (s : State) : Notice :=
  { source := source, period := s.ct.n, latched := (s.sourceSet source).latched, unreported := (s.sourceSet source).unreported,
    resetCause := if source = 0 then some s.tp.resetCause else none }

/-- NU after the build for the source at the head of the queue: the source leaves the queue and its unreported part is empty (R169). -/
def afterBuild (source : Nat) (rest : List Nat) (s : State) : State :=
  let s := s.onNu fun n => { n with queue := rest }
  if source = 0 then s.onNu fun n => { n with unit := { n.unit with unreported := 0#16 } }
  else s.setCauses source { s.causes source with unreported := 0#16 }

end Sys2Proof.Machine
end

