-- ==== Sys2Proof/Machine/Operands.lean ====
section
/-! DEFINITION. Bytes on the two links: check values, the codes of enumerated fields, the layouts of frames and payloads (R15, R180, chapter 11). -/

namespace Sys2Proof.Machine

/-! ### Numbers in bytes -/

/-- A number in `k` bytes, most significant byte first (5.7). -/
def be : Nat → Nat → List Byte
  | 0, _ => []
  | k + 1, v => BitVec.ofNat 8 (v / 256 ^ k) :: be k v

/-- A number in one byte. -/
def b1 (v : Nat) : Byte := BitVec.ofNat 8 v

/-- A bit as an on/off field (11.4). -/
def flagByte (b : Bool) : Byte := if b then 1#8 else 0#8

/-! ### Characters (R202) -/

/-- The character that carries a byte: a start bit of 0, the byte most significant bit first, a stop bit of 1. -/
def sentCharacter (b : Byte) : Character := BitVec.append (BitVec.append 0#1 b) 1#1

/-- The byte of a character. -/
def Character.byte (c : Character) : Byte := BitVec.extractLsb' 1 8 c

/-- A character whose stop bit is read as 0 has a framing error. -/
def Character.framingError (c : Character) : Bool := !c.getLsbD 0

/-- The characters of a frame as it is sent, without idle bits between them. -/
def sentCharacters (bytes : List Byte) : List Character := bytes.map sentCharacter

/-- The bytes of the characters received. -/
def bytesOf (chars : List Character) : List Byte := chars.map Character.byte

/-- Some character has a framing error. -/
def anyFramingError (chars : List Character) : Bool := chars.any Character.framingError

/-- The ten levels of a character in the order of the line. -/
def Character.levels (c : Character) : List Bool := (List.range 10).map fun i => c.getLsbD (9 - i)

/-- The levels of a frame on the line, one for each bit time. -/
def lineLevels (bytes : List Byte) : List Bool := (sentCharacters bytes).flatMap Character.levels

/-- The level of a line `bit` bit times after a frame has begun on it; the line rests at 1 when idle. -/
def levelAt (bytes : List Byte) (bit : Nat) : Bool := (lineLevels bytes).getD bit true

/-- Bit times that a frame of so many bytes takes. -/
def frameBits (bytes : List Byte) : Nat := 10 * bytes.length

/-! ### Check values -/

/-- The CRC-8 register after one more bit, most significant bit first, generator x^8+x^5+x^4+x^2+1 (R15). -/
def crc8Shift (r : BitVec 8) : BitVec 8 := if r.msb then (r <<< 1) ^^^ 0x35#8 else r <<< 1

/-- The CRC-8 register after one more byte. -/
def crc8Byte (r : BitVec 8) (b : Byte) : BitVec 8 := (List.range 8).foldl (fun x _ => crc8Shift x) (r ^^^ b)

/-- The CRC-8 of a frame, the register starting at 0x00 (R15). -/
def crc8 (bytes : List Byte) : Byte := bytes.foldl crc8Byte 0#8

/-- The CRC-16 register after one more bit, generator x^16+x^15+x^2+1 (R180). -/
def crc16Shift (r : BitVec 16) : BitVec 16 := if r.msb then (r <<< 1) ^^^ 0x8005#16 else r <<< 1

/-- The CRC-16 register after one more byte. -/
def crc16Byte (r : BitVec 16) (b : Byte) : BitVec 16 :=
  (List.range 8).foldl (fun x _ => crc16Shift x) (r ^^^ (b.zeroExtend 16 <<< 8))

/-- The CRC-16 of a trunk frame, the register starting at 0xFFFF (R180). -/
def crc16 (bytes : List Byte) : BitVec 16 := bytes.foldl crc16Byte 0xFFFF#16

/-- A downstream frame with its CRC-8 (R15). -/
def withCrc8 (bytes : List Byte) : List Byte := bytes ++ [crc8 bytes]

/-- A trunk frame with its CRC-16, most significant byte first (R180). -/
def withCrc16 (bytes : List Byte) : List Byte := bytes ++ be 2 (crc16 bytes).toNat

/-- A received meter frame whose last byte is the CRC-8 of those before it (R15). -/
def crc8Ok (bytes : List Byte) : Bool := decide (bytes.getLast? = some (crc8 bytes.dropLast))

/-- A received trunk frame whose last two bytes are the CRC-16 of those before them (R180). -/
def crc16Ok (bytes : List Byte) : Bool :=
  decide (bytes = withCrc16 (bytes.take (bytes.length - 2)))

/-! ### Downstream frames (11.2) -/

/-- The SYNC frame of a cadence number. -/
def syncFrame (n : Period) : List Byte := withCrc8 ([0#8, 0x01#8] ++ be 2 n.toNat)

/-- The POLL frame of a head address. -/
def pollFrame (addr : Nat) : List Byte := withCrc8 [b1 addr, 0x02#8]

/-- The byte of a switch direction. -/
def Direction.byte : Direction → Byte
  | .off => 0#8
  | .on => 1#8

/-- The SWITCH frame of a Switch Queue entry. -/
def switchFrame (e : SwitchEntry) : List Byte :=
  withCrc8 [b1 e.addr.head, 0x03#8, b1 e.addr.outlet, e.direction.byte]

/-! ### The reply frame of a head (11.2) -/

/-- A reply frame as MLC reads it. -/
structure ReplyFrame where
  source : Nat
  seq : Byte
  stamp : Period
  flags : FeedFlags
  count : Nat
  body : List Byte
  deriving DecidableEq, Repr

/-- The switch state of a byte; a value outside 0 to 2 gives UNKNOWN (R203). -/
def switchOfByte (b : Byte) : SwitchState := if b = 0#8 then .off else if b = 1#8 then .on else .unknown

/-- The feed flags of a byte; bits 2 to 7 are not read (R203). -/
def flagsOfByte (b : Byte) : FeedFlags := { a := b.getLsbD 0, b := b.getLsbD 1 }

/-- The fields of a reply frame that has passed the CRC check; `body` is what follows the record count, with the CRC-8. -/
def parseReply : List Byte → Option ReplyFrame
  | src :: seq :: s1 :: s0 :: flags :: count :: body =>
      some { source := src.toNat, seq := seq, stamp := BitVec.ofNat 16 (beNat [s1, s0]), flags := flagsOfByte flags,
             count := count.toNat, body := body }
  | _ => none

/-- The first `n` outlet records of a body. -/
def parseRecords : Nat → List Byte → List MeterRecord
  | n + 1, outlet :: sw :: c3 :: c2 :: c1 :: c0 :: rest =>
      { outlet := outlet.toNat, switchState := switchOfByte sw, counter := BitVec.ofNat 32 (beNat [c3, c2, c1, c0]) }
        :: parseRecords n rest
  | _, _ => []

/-! ### Codes (11.4) -/

def Feed.code : Feed → Nat
  | .a => 0
  | .b => 1

def RunState.code : RunState → Nat
  | .config => 0
  | .running => 1
  | .halted => 2

def HeadState.code : HeadState → Nat
  | .absent => 0
  | .present => 1
  | .silent => 2
  | .lost => 3

def Binding.code : Binding → Nat
  | .unbound => 0
  | .bound => 1
  | .releasing => 2

def Baseline.code : Baseline → Nat
  | .noBaseline => 0
  | .live => 1
  | .stale => 2

def TenantState.code : TenantState → Nat
  | .vacant => 0
  | .active => 1
  | .held => 2
  | .closing => 3

def TenantClass.code : TenantClass → Nat
  | .pooled => 0
  | .perFeed => 1

def MachineState.code : MachineState → Nat
  | .clear => 0
  | .pending => 1
  | .breach => 2
  | .easing => 3

def Stage.code : Stage → Nat
  | .idle => 0
  | .armed => 1
  | .shedding => 2
  | .shedHold => 3
  | .restoring => 4

def MachineKind.code : MachineKind → Nat
  | .demand => 0
  | .burst => 1

def BreachOutcome.code : BreachOutcome → Nat
  | .cleared => 0
  | .shed => 1
  | .held => 2
  | .reset => 3

/-- The feed of a breach: A, B or BOTH (R126). -/
def FeedSet.code (f : FeedSet) : Nat := if f.a && f.b then 2 else if f.b then 1 else 0

def coveredCode : Option Feed → Nat
  | none => 0
  | some .a => 1
  | some .b => 2

def RecordFlag.code : RecordFlag → Nat
  | .normal => 0
  | .baseline => 1
  | .gap => 2
  | .discontinuity => 3
  | .unbound => 4

def ResetCause.code : ResetCause → Nat
  | .powerOn => 1
  | .resetPin => 2
  | .orderFull => 3
  | .orderAccounts => 4

def Status.code : Status → Nat
  | .done => 0
  | .accepted => 1
  | .busy => 2
  | .incorrectState => 3
  | .invalidParameter => 4
  | .locked => 5
  | .unknownOrder => 6

def CompletionOutcome.code : CompletionOutcome → Nat
  | .released => 1
  | .releasedWhileOff => 2
  | .stated => 3
  | .closed => 4
  | .abandoned => 5
  | .restored => 6
  | .partialRestore => 7

/-- The switch state codes of 11.2. -/
def SwitchState.code : SwitchState → Nat
  | .off => 0
  | .on => 1
  | .unknown => 2

/-- The feed flags byte of 11.2. -/
def FeedFlags.byte (f : FeedFlags) : Byte := b1 ((if f.a then 1 else 0) + (if f.b then 2 else 0))

/-! ### Upstream payloads (11.7) -/

/-- Demand kind, value 1, value 2 and period; FILLING is sent as zeros (11.4, 11.7). -/
def demandBytes : Option DemandValue → List Byte
  | none => be 1 0 ++ be 3 0 ++ be 3 0 ++ be 2 0
  | some d => be 1 (d.cls.code + 1) ++ be 3 d.value1 ++ be 3 d.value2 ++ be 2 d.period.toNat

/-- Peak present, peak and its period (11.7). -/
def peakBytes : Option PeakDemand → List Byte
  | none => be 1 0 ++ be 3 0 ++ be 2 0
  | some p => be 1 1 ++ be 3 p.watts ++ be 2 p.period.toNat

/-- One slot of the breach log in a statement (11.7). -/
def breachBytes (c : ClosedBreach) : List Byte :=
  be 1 c.kind.code ++ be 1 c.feeds.code ++ be 1 c.outcome.code ++ be 2 c.start.toNat ++ be 2 c.duration ++ be 3 c.peak

/-- The four log slots, oldest first, unused ones zero (11.7). -/
def breachLogBytes (log : List ClosedBreach) : List Byte :=
  let used := (log.take Config.breachLogDepth).flatMap breachBytes
  used ++ List.replicate (40 - used.length) 0#8

/-- The statement of 11.7, 103 bytes. -/
def Statement.bytes (x : Statement) : List Byte :=
  be 1 x.tenant ++ be 2 x.period.toNat ++ be 1 x.state.code ++ be 1 x.cls.code ++ be 3 x.capacity1 ++ be 3 x.capacity2
    ++ be 6 x.lifetimeA ++ be 6 x.lifetimeB ++ be 1 x.ringEntries ++ be 7 x.ringSumA ++ be 7 x.ringSumB ++ be 1 x.ringIncomplete
    ++ demandBytes x.lastDemand ++ peakBytes x.peak ++ be 1 x.burstState.code ++ be 1 x.burstCount ++ be 1 x.demandState.code
    ++ be 1 x.demandCount ++ be 1 x.breachLog.length ++ breachLogBytes x.breachLog ++ be 1 x.stage.code
    ++ be 1 (coveredCode x.coveredFeed) ++ be 2 x.allowanceTail

/-- The body of a completion (11.7). -/
def CompletionBody.bytes : CompletionBody → List Byte
  | .release a => be 1 a.head ++ be 1 a.outlet
  | .statement x => x.bytes
  | .tenant t => be 1 t
  | .restore t k => be 1 t ++ be 2 k.confirmed ++ be 2 k.alreadyOn ++ be 2 k.atLimit

/-- A COMPLETION payload (11.7). -/
def Completion.payload (c : Completion) : List Byte := be 1 c.code ++ be 1 c.outcome.code ++ c.body.bytes

/-- A NOTICE payload, 8 bytes (11.7). -/
def Notice.payload (n : Notice) : List Byte :=
  be 1 n.source ++ be 2 n.period.toNat ++ be 2 n.latched.toNat ++ be 2 n.unreported.toNat
    ++ be 1 (match n.resetCause with | none => 0 | some c => c.code)

/-- A SUMMARY payload, 34 bytes (11.7). -/
def Summary.payload (r : Summary) : List Byte :=
  be 1 r.tenant ++ be 2 r.period.toNat ++ be 6 r.energyA ++ be 6 r.energyB ++ be 3 r.rateA ++ be 3 r.rateB
    ++ demandBytes r.demand ++ be 1 r.burstState.code ++ be 1 r.demandState.code ++ be 1 r.stage.code ++ [flagByte r.incomplete]

/-- One entry of a METER_FORWARD frame (11.7). -/
def ForwardEntry.bytes (e : ForwardEntry) : List Byte :=
  be 1 e.outlet ++ be 1 e.switchState.code ++ be 1 e.flag.code ++ be 1 e.primary ++ be 4 e.delta

/-- The entries one part of a copy carries (R205). -/
def ForwardFrame.partEntries (f : ForwardFrame) : ForwardPart → List ForwardEntry
  | .whole => f.entries
  | .first => f.entries.take Config.forwardPartOne
  | .second => f.entries.drop Config.forwardPartOne

/-- The part code (11.7). -/
def ForwardPart.code : ForwardPart → Nat
  | .whole => 0
  | .first => 1
  | .second => 2

/-- A METER_FORWARD payload (11.7). -/
def ForwardFrame.payload (f : ForwardFrame) (p : ForwardPart) : List Byte :=
  be 1 f.head ++ be 2 f.stamp.toNat ++ [f.flags.byte] ++ be 1 p.code ++ be 1 (f.partEntries p).length
    ++ (f.partEntries p).flatMap ForwardEntry.bytes

/-- A REPLY payload: order code, status and, for DONE, the result (11.6). -/
def Reply.payload (r : Reply) : List Byte := be 1 r.code ++ be 1 r.status.code ++ r.result

/-- An upstream frame: header, payload and CRC-16; direction UP, broadcast flag clear, bits 1 and 0 of byte 0 clear (11.3, R204). -/
def upFrame (addr : BitVec 4) (kind : Nat) (tag : Byte) (payload : List Byte) : List Byte :=
  withCrc16 ([b1 (128 + addr.toNat * 4), b1 kind, tag, b1 payload.length] ++ payload)

/-- The bytes of a reply on the line. -/
def replyBytes (addr : BitVec 4) (r : Reply) : List Byte := upFrame addr 2 r.tag r.payload

/-- The bytes of the frame in hand on the line; the tag of NOTICE, SUMMARY and METER_FORWARD is 0 (10.1). -/
def UpFrame.bytes (addr : BitVec 4) : UpFrame → List Byte
  | .completion c => upFrame addr 3 c.tag c.payload
  | .notice n => upFrame addr 4 0#8 n.payload
  | .summary r => upFrame addr 5 0#8 r.payload
  | .forward f p => upFrame addr 6 0#8 (f.payload p)

/-! ### The trunk header (11.3) -/

/-- Header bytes of a trunk frame. -/
def trunkHeaderLength : Nat := 4

/-- The length of the trunk frame that begins a reception, once its header is in (R180). -/
def trunkLength : List Byte → Option Nat
  | _ :: _ :: _ :: len :: _ => some (6 + len.toNat)
  | _ => none

/-- A trunk frame as TP reads it; bits 1 and 0 of byte 0 are not read (R204). -/
structure TrunkFrame where
  up : Bool
  broadcast : Bool
  addr : BitVec 4
  kind : Nat
  tag : Byte
  payload : List Byte
  deriving DecidableEq, Repr

/-- The fields of a whole trunk frame. -/
def parseTrunk : List Byte → Option TrunkFrame
  | b0 :: kind :: tag :: len :: rest =>
      some { up := b0.getLsbD 7, broadcast := b0.getLsbD 6, addr := BitVec.extractLsb' 2 4 b0, kind := kind.toNat, tag := tag,
             payload := rest.take len.toNat }
  | _ => none

/-! ### Replies (11.6) -/

/-- The four slots of an outlet record's share list (11.6). -/
def shareSlots (shares : List ShareEntry) : List Byte :=
  let used := (shares.take 4).flatMap fun e => be 1 e.tenant ++ be 2 e.share ++ be 3 e.rate
  used ++ List.replicate (24 - used.length) 0#8

/-- The outlet record as READ-OUTLET returns it, 50 bytes (R53, 11.6). The owed tag is sent as 0 while no completion is owed, where the manual
gives it no value: the model's choice (log entry 26). -/
def outletBytes (a : OutletAddr) (o : Outlet) : List Byte :=
  be 1 a.head ++ be 1 a.outlet ++ be 1 o.binding.code ++ be 1 o.feed.code ++ be 1 o.current ++ be 1 o.priority ++ be 4 o.bindSeq
    ++ be 1 o.shares.length ++ shareSlots o.shares ++ be 3 o.unattributedRate ++ be 1 o.baseline.code
    ++ be 4 o.lastCounter.toNat ++ be 2 o.lastStamp.toNat ++ be 1 o.switchState.code ++ be 1 o.discontinuities
    ++ [flagByte o.shedMark] ++ [flagByte o.completionOwed.isSome] ++ [o.completionOwed.getD 0#8]

/-- A Head Table entry as FORGET-HEAD returns it (R32, 11.6). -/
def headBytes (e : HeadEntry) : List Byte :=
  be 1 e.state.code ++ be 1 e.errorCount ++ be 1 e.silence ++ [flagByte e.lastStamp.isSome]
    ++ be 2 ((e.lastStamp.map BitVec.toNat).getD 0) ++ [(e.lastFlags.map FeedFlags.byte).getD 0#8]

/-- Head Table entries in PRESENT (R190). -/
def State.headsPresent (s : State) : Nat := (s.mlc.heads.filter fun p => decide (p.2.state = .present)).length

/-- The result of IDENTIFY, 23 bytes (R190, 11.6). -/
def identifyBytes (s : State) : List Byte :=
  be 2 Config.vendorCode ++ be 2 Config.partCode ++ be 1 Config.revision ++ be 1 s.tp.unitAddr.toNat ++ be 1 s.ct.runState.code
    ++ be 1 s.tp.resetCause.code ++ [flagByte s.tp.service] ++ be 1 s.headsPresent ++ be 2 s.ot.boundCount ++ be 1 s.tl.count
    ++ be 6 s.oae.unattributed ++ be 2 s.tp.dropCount ++ be 2 s.tp.lockMap.toNat

end Sys2Proof.Machine
end

