-- ==== Sys2Proof/Machine/OrderPath.lean ====
section
/-! DEFINITION. What an owner answers to an order, and the Reply slot that takes it (R184, R185, R187). -/

namespace Sys2Proof.Machine

/-- What an owner hands TP: a status and, for DONE, the bytes of the result (R184, R185). -/
structure Answer where
  status : Status
  result : List Byte
  deriving DecidableEq, Repr

/-- DONE with its result. -/
def Answer.done (result : List Byte) : Answer := { status := .done, result := result }

/-- Any other status: no result (R185). -/
def Answer.plain (status : Status) : Answer := { status := status, result := [] }

/-- The window open is that of the order in the path (R186). -/
def TrunkPort.inOwnWindow (p : TrunkPort) : Bool := (p.window.map ReplyWindow.own).getD false

/-- The reply of an order fills the Reply slot; the order path stays busy until it has been sent (R183, R184). Whether the window of the
order is open at this moment decides how the reply is sent (R187). -/
def fillSlot (tag : Byte) (code : Nat) (a : Answer) (s : State) : State :=
  s.onTp fun p =>
    { p with
      slot := some { tag := tag, code := code, status := a.status, result := a.result }, path := .replying, prompt := p.inOwnWindow }

end Sys2Proof.Machine
end

