-- ==== Sys2Proof/Machine/Outlets.lean ====
section
/-! DEFINITION. The Outlet Table's orders: BIND-OUTLET, ALTER-OUTLET, RELEASE-OUTLET, READ-OUTLET (chapter 3). -/

namespace Sys2Proof.Machine

/-- The place of an outlet in the table. -/
def outletKey (head outlet : Nat) : Nat := OutletAddr.key { head := head, outlet := outlet }

/-- A rated current and a shed priority in their ranges (3.1). -/
def ratingInRange (current priority : Nat) : Bool := decide (1 ≤ current ∧ current ≤ 63 ∧ priority ≤ 7)

/-! ### BIND-OUTLET (R44, R45) -/

/-- A share list of the shape of R38: 1 to 4 distinct tenants, each share at least 1, the shares summing to 256. -/
def shareListOk (es : List (Nat × Nat)) : Bool :=
  decide (1 ≤ es.length ∧ es.length ≤ 4) && es.all (fun e => validTenant e.1) && decide ((es.map Prod.fst).Nodup)
    && es.all (fun e => decide (1 ≤ e.2)) && decide ((es.map Prod.snd).sum = 256)

/-- Check 1 of BIND-OUTLET (R44). -/
def bindInRange (f : BindFields) : Bool :=
  validOutlet f.head f.outlet && decide (f.feed ≤ 1) && ratingInRange f.current f.priority && shareListOk f.entries
    && decide (f.priority = 0 ∨ f.entries.length = 1)

/-- A tenant that an outlet can be bound to: ACTIVE or HELD (5.2, R44). -/
def State.bindable (s : State) (t : Nat) : Bool := decide ((s.tenant t).state = .active ∨ (s.tenant t).state = .held)

/-- The bind counter after one more bind (R39). -/
def nextBind (n : Nat) : Nat := satAdd Config.wordMax n 1

/-- The outlet record of an accepted bind (R45). -/
def boundRecord (f : BindFields) (seq : Nat) (o : Outlet) : Outlet :=
  { o with
    binding := .bound
    shares := f.entries.map fun e => { tenant := e.1, share := e.2, rate := 0 }
    feed := if f.feed = 0 then .a else .b
    current := f.current, priority := f.priority, bindSeq := seq, unattributedRate := 0 }

/-- BIND-OUTLET accepted (R39, R45, R55). -/
def bindOutlet (f : BindFields) (s : State) : State :=
  let key := outletKey f.head f.outlet
  (s.setOutlet key (boundRecord f (nextBind s.ot.bindCounter) (s.outlet key))).onOt fun t =>
    { t with bindCounter := nextBind t.bindCounter, boundCount := t.boundCount + 1 }

/-- OT takes BIND-OUTLET (R44). -/
def ownBindOutlet (f : BindFields) (s : State) : State × Answer :=
  if bindInRange f = false then (s, .plain .invalidParameter)
  else if f.entries.any fun e => s.locked e.1 then (s, .plain .locked)
  else if (s.outlet (outletKey f.head f.outlet)).binding ≠ .unbound ∨ (f.entries.all fun e => s.bindable e.1) = false then
    (s, .plain .incorrectState)
  else (bindOutlet f s, .done (be 4 (nextBind s.ot.bindCounter)))

/-! ### ALTER-OUTLET (R46, R47) -/

/-- Some tenant of the outlet's share list is locked (R46, R48, R54). -/
def State.outletLocked (s : State) (o : Outlet) : Bool := o.tenants.any s.locked

/-- OT takes ALTER-OUTLET (R46, R47). -/
def ownAlterOutlet (head outlet current priority : Nat) (s : State) : State × Answer :=
  let key := outletKey head outlet
  let o := s.outlet key
  if (validOutlet head outlet && ratingInRange current priority && decide (priority = 0 ∨ o.shares.length ≤ 1)) = false then
    (s, .plain .invalidParameter)
  else if s.outletLocked o then (s, .plain .locked)
  else if o.binding ≠ .bound then (s, .plain .incorrectState)
  else (s.setOutlet key { o with current := current, priority := priority }, .done (be 1 o.current ++ be 1 o.priority))

/-! ### RELEASE-OUTLET (R48) -/

/-- RELEASE-OUTLET accepted (R48, R55). -/
def releaseOutlet (tag : Byte) (key : Nat) (s : State) : State :=
  (s.setOutlet key { s.outlet key with binding := .releasing, completionOwed := some tag }).onOt fun t =>
    { t with boundCount := t.boundCount - 1 }

/-- OT takes RELEASE-OUTLET (R48). -/
def ownReleaseOutlet (tag : Byte) (head outlet : Nat) (s : State) : State × Answer :=
  let key := outletKey head outlet
  let o := s.outlet key
  if validOutlet head outlet = false then (s, .plain .invalidParameter)
  else if s.outletLocked o then (s, .plain .locked)
  else
    match o.binding with
    | .unbound => (s, .plain .incorrectState)
    | .releasing => (s, .plain .busy)
    | .bound => (releaseOutlet tag key s, .plain .accepted)

/-! ### READ-OUTLET (R53) -/

/-- OT takes READ-OUTLET (R53). -/
def ownReadOutlet (head outlet : Nat) (s : State) : State × Answer :=
  if validOutlet head outlet then
    (s, .done (outletBytes { head := head, outlet := outlet } (s.outlet (outletKey head outlet))))
  else (s, .plain .invalidParameter)

end Sys2Proof.Machine
end

