-- ==== Sys2Proof/Machine/Attribution.lean ====
section
/-! DEFINITION. The Attribution Engine: the arithmetic of one record, deliveries, the staleness sweep, Interval Totals, the end of a release (chapter 4, R50, R51). -/

namespace Sys2Proof.Machine

/-! ### The arithmetic of one record (4.3) -/

/-- The periods a reading spans, k (R64). -/
def elapsed (o : Outlet) (stamp : Period) : Nat := (stamp - o.lastStamp).toNat

/-- The delta of a reading, d (R66). -/
def deltaOf (o : Outlet) (c : Counter) : Nat := (c - o.lastCounter).toNat

/-- The plausibility ceiling over `k` periods (R66). -/
def plausibilityCeiling (cfg : UnitConfig) (o : Outlet) (k : Nat) : Nat :=
  o.current * cfg.voltage o.feed * k * cfg.il * 5 / 4

/-- The case a record falls under (R62 to R67). -/
inductive RecordCase where
  | baseline
  | repeated
  | baselineOnly
  | gap
  | discontinuity
  | plausible (delta elapsed : Nat)
  deriving DecidableEq, Repr

/-- The case of a record, by the steps of R63 to R66, with R62 while no collecting period exists. -/
def recordCase (cfg : UnitConfig) (collecting : Bool) (o : Outlet) (stamp : Period) (c : Counter) : RecordCase :=
  if o.baseline = .noBaseline then .baseline
  else if elapsed o stamp = 0 then .repeated
  else if collecting = false then .baselineOnly
  else if Config.gapPeriods ≤ elapsed o stamp then .gap
  else if plausibilityCeiling cfg o (elapsed o stamp) < deltaOf o c then .discontinuity
  else .plausible (deltaOf o c) (elapsed o stamp)

/-- A delta divided among a share list: each entry after the first its floor, the primary the remainder (R67). -/
def splitDelta (d : Nat) : List ShareEntry → List Nat
  | [] => []
  | _ :: others =>
    let parts := others.map fun e => d * e.share / 256
    (d - parts.sum) :: parts

/-- The parts credited to the accumulators of the outlet's feed, and the rate sums moved to the new held rates (R68, R69). -/
def attributeParts (f : Feed) (seconds : Nat) (pairs : List (ShareEntry × Nat)) (s : State) : State :=
  pairs.foldl (fun st p => adjustRate p.1.tenant f p.1.rate (p.2 / seconds) (credit p.1.tenant f p.2 st)) s

/-- A share list with the held rates of its parts (R69). -/
def ratedShares (seconds : Nat) (pairs : List (ShareEntry × Nat)) : List ShareEntry :=
  pairs.map fun p => { p.1 with rate := p.2 / seconds }

/-- The primary tenant of a share list, 0 without one (R73). -/
def Outlet.primary (o : Outlet) : Nat :=
  match o.shares with
  | [] => 0
  | e :: _ => e.tenant

/-- The outlet after a record that sets its baseline (R63, R65, R66, R70). -/
def Outlet.rebased (o : Outlet) (stamp : Period) (r : MeterRecord) : Outlet :=
  { o with lastCounter := r.counter, lastStamp := stamp, baseline := .live, switchState := r.switchState }

/-- What OAE writes into TP's copy for a record (R73, R201). -/
def annotate (o : Outlet) (r : MeterRecord) (flag : RecordFlag) (delta : Nat) : ForwardEntry :=
  { outlet := r.outlet, switchState := r.switchState, flag := flag, primary := if o.listed then o.primary else 0, delta := delta }

/-- The share tenants of a listed outlet marked incomplete and made suspect (R65, R66, R74). The latches reach NU in the order of the share
list, where the manual gives no order: the model's choice (log entry 27). -/
def suspect (o : Outlet) (s : State) : State :=
  if o.listed then latchTenants .outletSuspect o.tenants (markIncomplete o.tenants s) else s

/-- A plausible delta of an UNBOUND outlet (R71, R72). -/
def takeUnbound (key : Nat) (o : Outlet) (stamp : Period) (r : MeterRecord) (delta seconds : Nat) (s : State) : State :=
  let s := s.onOae fun a => { a with unattributed := satAdd Config.energyMax a.unattributed delta }
  let s := s.setOutlet key { o.rebased stamp r with unattributedRate := delta / seconds }
  if s.ct.config.threshold ≠ 0 ∧ s.ct.config.threshold < delta / seconds then latchUnit .unattributedDraw s else s

/-- A plausible delta of a BOUND or RELEASING outlet (R67 to R70). -/
def takeBound (key : Nat) (o : Outlet) (stamp : Period) (r : MeterRecord) (delta seconds : Nat) (s : State) : State :=
  let pairs := o.shares.zip (splitDelta delta o.shares)
  (attributeParts o.feed seconds pairs s).setOutlet key { o.rebased stamp r with shares := ratedShares seconds pairs }

/-- OAE takes one record and annotates it (R62 to R73). -/
def takeRecord (head : Nat) (stamp : Period) (r : MeterRecord) (s : State) : State × ForwardEntry :=
  let key := OutletAddr.key { head := head, outlet := r.outlet }
  let o := s.outlet key
  match recordCase s.ct.config s.ct.collectingOpen o stamp r.counter with
  | .baseline =>
      let s' := s.setOutlet key (o.rebased stamp r)
      (if s.ct.collectingOpen && o.listed then markIncomplete o.tenants s' else s', annotate o r .baseline 0)
  | .repeated => (s.setOutlet key { o with switchState := r.switchState }, annotate o r .normal 0)
  | .baselineOnly => (s.setOutlet key (o.rebased stamp r), annotate o r .baseline 0)
  | .gap => (suspect o (s.setOutlet key (o.rebased stamp r)), annotate o r .gap 0)
  | .discontinuity =>
      (suspect o (s.setOutlet key
        { o.rebased stamp r with discontinuities := min Config.discontinuityMax (o.discontinuities + 1) }),
       annotate o r .discontinuity 0)
  | .plausible d k =>
      if o.listed then (takeBound key o stamp r d (k * s.ct.config.il) s, annotate o r .normal d)
      else (takeUnbound key o stamp r d (k * s.ct.config.il) s, annotate o r .unbound d)

/-- OAE takes the records of a delivery in order (R61). -/
def takeRecords (head : Nat) (stamp : Period) : List MeterRecord → State → State × List ForwardEntry
  | [], s => (s, [])
  | r :: rest, s =>
    let x := takeRecord head stamp r s
    let y := takeRecords head stamp rest x.1
    (y.1, x.2 :: y.2)

/-- An annotated copy offered to the Forward Queue, by the forward mode (R200). -/
def offerForward (f : ForwardFrame) (s : State) : State :=
  if s.ct.config.forwardAll then
    if s.tp.forwards.length < Config.forwardDepth then s.onTp fun p => { p with forwards := p.forwards ++ [f] }
    else latchUnit .forwardLost (s.onTp fun p => { p with dropCount := min Config.dropMax (p.dropCount + 1) })
  else s

/-- The oldest copy, annotated, leaves the pending-copy list (R73, R200). -/
def finishCopy (entries : List ForwardEntry) (s : State) : State :=
  match s.tp.copies with
  | [] => s
  | c :: rest =>
    offerForward { head := c.head, stamp := c.stamp, flags := c.flags, entries := entries }
      (s.onTp fun p => { p with copies := rest })

/-- With no delivery begun, OAE begins to take the oldest one that waits (R61). -/
def beginDelivery (s : State) : State :=
  match s.oae.taking, s.oae.deliveries with
  | none, d :: rest =>
    s.onOae fun o => { o with deliveries := rest, taking := some { head := d.head, stamp := d.stamp, rest := d.records, entries := [] } }
  | _, _ => s

/-- OAE works through the next `n` records of the delivery it is taking; with the last one the copy is complete (R43, R61, R73). -/
def advanceDelivery (n : Nat) (s : State) : State :=
  match s.oae.taking with
  | none => s
  | some k =>
    let x := takeRecords k.head k.stamp (k.rest.take n) s
    let entries := k.entries ++ x.2
    if n < k.rest.length then x.1.onOae fun o => { o with taking := some { k with rest := k.rest.drop n, entries := entries } }
    else finishCopy entries (x.1.onOae fun o => { o with taking := none })

/-- The delivery that OAE is taking, if any, is taken to its end (R32, R61, R78). -/
def endDelivery (s : State) : State :=
  match s.oae.taking with
  | none => s
  | some k => advanceDelivery k.rest.length s

/-- OAE takes the oldest delivery, to its end or over so many records; while a close is in progress it takes none (R61, R78). -/
def takeDelivery (records : Option Nat) (s : State) : State :=
  if s.oae.closes = [] then
    match records with
    | none => endDelivery (beginDelivery s)
    | some n => advanceDelivery n (beginDelivery s)
  else s

/-- DELIVERY_TAKE (R61). -/
def execDeliveryTake (s : State) (records : Option Nat := none) : Result := .next (takeDelivery records s)

/-! ### Step 1 of a close: the staleness sweep (R75, R76) -/

/-- An outlet whose rates the sweep of period `c` drops: its age is above S or its head is LOST. A STALE outlet is left as it is. -/
def sweepDrops (c : Period) (staleLimit : Nat) (headLost : Bool) (o : Outlet) : Bool :=
  decide (o.baseline ≠ .stale) && (decide (staleLimit < (c + 1 - o.lastStamp).toNat) || headLost)

/-- An outlet after its rates are dropped: a LIVE one becomes STALE, a NO_BASELINE one stays so (R75, R76). -/
def Outlet.dropped (o : Outlet) : Outlet :=
  { o with
    baseline := if o.baseline = .live then .stale else o.baseline
    shares := o.shares.map fun e => { e with rate := 0 }
    unattributedRate := 0 }

/-- The sweep of one outlet record. The head's state is the Head Table's as it stands at the sweep (R75): where a run lets the new round go on between
ROUND_END and CLOSE, or forgets the head there, that is no longer the state the ended round left, of which R78 speaks, and R8 sets no order between the
close and the new round: the model's choice (log entry 35). -/
def sweepOutlet (c : Period) (key : Nat) (s : State) : State :=
  let o := s.outlet key
  if sweepDrops c s.ct.config.staleLimit (decide ((s.head (addrOfKey key).head).state = .lost)) o then
    (removeRates o.feed o.shares s).setOutlet key o.dropped
  else s

/-- The sweep of every outlet record in ascending address; an unlisted record is one the sweep leaves as it is. -/
def sweep (c : Period) (s : State) : State := s.ot.outlets.foldl (fun st p => sweepOutlet c p.1 st) s

/-! ### Step 2: the Interval Totals (R77, R79) -/

/-- An Interval Total (R79). -/
structure IntervalTotal where
  tenant : Nat
  period : Period
  energyA : Nat
  energyB : Nat
  rateA : Nat
  rateB : Nat
  incomplete : Bool
  feedA : FeedState
  feedB : FeedState
  deriving DecidableEq, Repr

/-- The total of a tenant is incomplete: its mark is set, or an outlet that lists it is STALE or NO_BASELINE (R77). -/
def totalIncomplete (s : State) (t : Nat) : Bool :=
  (s.account t).incomplete || s.ot.outlets.any fun p => p.2.names t && decide (p.2.baseline ≠ .live)

/-- The Interval Total of a tenant for period `c`; the feed states are those FM handed for this close (R79, R131, R137). -/
def intervalTotal (c : Period) (f : FeedStates) (s : State) (t : Nat) : IntervalTotal :=
  { tenant := t, period := c, energyA := (s.account t).accA, energyB := (s.account t).accB, rateA := (s.account t).rateA,
    rateB := (s.account t).rateB, incomplete := totalIncomplete s t, feedA := f.a, feedB := f.b }

/-- The tenants that are not VACANT, in ascending number. -/
def State.liveTenants (s : State) : List Nat :=
  (s.tl.tenants.filter fun p => decide (p.2.state ≠ .vacant)).map Prod.fst

/-- The Interval Totals of a close, in ascending tenant number (R79). -/
def intervalTotals (c : Period) (f : FeedStates) (s : State) : List IntervalTotal := s.liveTenants.map (intervalTotal c f s)

/-- A total is handed: its completeness is the tenant's condition, and an incomplete one latches INCOMPLETE_DATA (R77). -/
def handTotal (s : State) (x : IntervalTotal) : State :=
  let s' := s.setAccount x.tenant { s.account x.tenant with lastIncomplete := x.incomplete }
  if x.incomplete then latchTenant .incompleteData x.tenant s' else s'

/-! ### Step 3: the zeroing (R80, R81) -/

/-- All collecting accumulators are 0 and all incomplete marks clear; rate sums stand (R80, R81). -/
def zeroCollecting (s : State) : State :=
  s.onOae fun o =>
    { o with accounts := tableMap Account.initial (fun _ a => { a with accA := 0, accB := 0, incomplete := false }) o.accounts }

/-! ### Step 4: the end of releases (R50, R51, R56, R161) -/

/-- The outlet leaves the shed order of each tenant that its share list names (R161, log entry 16). -/
def unshed (a : OutletAddr) (ts : List Nat) (s : State) : State :=
  ts.foldl (fun st t =>
    st.setEsc t { st.esc t with
      shedOrder := (st.esc t).shedOrder.filter fun x => decide (x ≠ a)
      cursor := if (st.esc t).cursor = some a then none else (st.esc t).cursor }) s

/-- The outlet passes to UNBOUND in one step (R50). -/
def finishRelease (key : Nat) (s : State) : State :=
  let o := s.outlet key
  let s := removeRates o.feed o.shares s
  let s := if o.shedMark then unshed (addrOfKey key) o.tenants s else s
  s.setOutlet key
    { o with binding := .unbound, shares := [], unattributedRate := 0, shedMark := false, completionOwed := none }

/-- The completion of a release (R50). -/
def releaseCompletion (key : Nat) (o : Outlet) (tag : Byte) : Completion :=
  { code := codeReleaseOutlet, tag := tag,
    outcome := if o.switchState = .off then .releasedWhileOff else .released,
    body := .release (addrOfKey key) }

/-- The close reaches an outlet: a RELEASING one with no completion owed, or whose completion TP takes, is released (R50, R51, R56). -/
def endRelease (key : Nat) (s : State) : State :=
  let o := s.outlet key
  if o.binding = .releasing then
    match o.completionOwed with
    | none => finishRelease key s
    | some tag => if s.completionRoom then finishRelease key (placeCompletion (releaseCompletion key o tag) s) else s
  else s

/-- The end of releases over every outlet in ascending address (R50, R80). -/
def endReleases (s : State) : State := s.ot.outlets.foldl (fun st p => endRelease p.1 st) s

/-- The collecting period is abandoned: no total is handed (R81). -/
def abandonPeriod (s : State) : State := zeroCollecting s

end Sys2Proof.Machine
end

