-- ==== Sys2Proof/Machine/Judgment.lean ====
section
/-! DEFINITION. What a settle computes: the bucket, the demand ring, demand and burst values, limits, the failover allowance, the exceedance machines and the breach log (chapters 6 and 7). -/

namespace Sys2Proof.Machine

/-- What a machine did at an evaluation that ES hears of (R119, R122, R124). -/
inductive Move where
  | entry
  | back
  | clear
  deriving DecidableEq, Repr

/-! ### The failover allowance (R138 to R142) -/

/-- For which feeds the allowance holds at a settle (R139). -/
inductive Allowance where
  | off
  | covers (f : Feed)
  | both
  deriving DecidableEq, Repr

/-- A feed is down in an Interval Total when the total carries it as LOST or RETURNING (7.2). -/
def FeedState.down (f : FeedState) : Bool := decide (f ≠ .present)

/-- The allowance fields of a tenant after step 3, and for which feeds the allowance holds (R138, R139). -/
structure AllowanceStep where
  coveredFeed : Option Feed
  tail : Nat
  held : Bool
  holds : Allowance
  deriving DecidableEq, Repr

/-- The allowance of a PER_FEED tenant, by the first row of R139 that applies; `full` is B × L. -/
def perFeedAllowance (full : Nat) (covered : Option Feed) (tail : Nat) (downA downB : Bool) : AllowanceStep :=
  if downA && downB then
    { coveredFeed := covered, tail := if 0 < tail then full else 0, held := true, holds := .both }
  else if downA then { coveredFeed := some .a, tail := full, held := true, holds := .covers .a }
  else if downB then { coveredFeed := some .b, tail := full, held := true, holds := .covers .b }
  else if 0 < tail then
    { coveredFeed := if tail = 1 then none else covered, tail := tail - 1, held := true,
      holds := match covered with | some f => .covers f | none => .off }
  else { coveredFeed := none, tail := 0, held := false, holds := .off }

/-- Step 3 of a settle for either class (R138, R139). -/
def allowanceStep (w : WindowFields) (r : Tenant) (feedA feedB : FeedState) : AllowanceStep :=
  match w.cls with
  | .pooled => { coveredFeed := none, tail := 0, held := false, holds := .off }
  | .perFeed => perFeedAllowance (w.buckets * w.bucketLength) r.coveredFeed r.allowanceTail feedA.down feedB.down

/-! ### Limits and thresholds (R114, R115, R140, R141) -/

/-- An evaluated feed and its demand limit. -/
structure FeedLimit where
  scope : Scope
  limit : Nat
  deriving DecidableEq, Repr

/-- The evaluated feeds of a settle and the demand limit of each (R114, R140, R141). -/
def feedLimits (k : Contract) (al : Allowance) : List FeedLimit :=
  match k.window.cls with
  | .pooled => [{ scope := .pooled, limit := k.limits.capacity1 }]
  | .perFeed =>
    match al with
    | .off => [{ scope := .feedA, limit := k.limits.capacity1 }, { scope := .feedB, limit := k.limits.capacity2 }]
    | .covers .a => [{ scope := .feedB, limit := k.limits.capacity1 + k.limits.capacity2 }]
    | .covers .b => [{ scope := .feedA, limit := k.limits.capacity1 + k.limits.capacity2 }]
    | .both => []

/-- The exit threshold of a bound with hysteresis `h` (R114, R115). -/
def exitThreshold (h bound : Nat) : Nat := bound * (1024 - h) / 1024

/-- The burst ceiling of a limit at `b` percent (R115). -/
def burstCeiling (b limit : Nat) : Nat := limit * b / 100

/-! ### Classification (R116) -/

/-- The three bands. -/
inductive Band where
  | above
  | between
  | atExit
  deriving DecidableEq, Repr

/-- A value with the bound and the exit it is judged against. -/
structure Judged where
  scope : Scope
  value : Nat
  bound : Nat
  exit : Nat
  deriving DecidableEq, Repr

/-- What an evaluation reduces to. -/
structure Evaluation where
  band : Band
  peak : Nat
  feedsOver : FeedSet
  deriving DecidableEq, Repr

/-- The feeds a scope stands for; the pooled value stands for both (R116). -/
def scopeFeeds : Scope → FeedSet
  | .pooled => { a := true, b := true }
  | .feedA => { a := true, b := false }
  | .feedB => { a := false, b := true }

/-- The combined band of the evaluated feeds. -/
def combinedBand (js : List Judged) : Band :=
  if js.any fun j => decide (j.bound < j.value) then .above
  else if js.all fun j => decide (j.value ≤ j.exit) then .atExit
  else .between

/-- The classification of an evaluation; none when no feed is evaluated (R116). -/
def classify (js : List Judged) : Option Evaluation :=
  if js = [] then none
  else some
    { band := combinedBand js
      peak := js.foldl (fun m j => max m j.value) 0
      feedsOver := (js.filter fun j => decide (j.bound < j.value)).foldl (fun f j => f.union (scopeFeeds j.scope)) { a := false, b := false } }

/-! ### Burst and demand values (R111, R113) -/

/-- The burst value of a scope, from the rate sums of the Interval Total (R113). -/
def burstValue (x : IntervalTotal) : Scope → Nat
  | .pooled => clampWatts (x.rateA + x.rateB)
  | .feedA => clampWatts x.rateA
  | .feedB => clampWatts x.rateB

/-- The evaluated burst values with their ceilings and exits (R115). -/
def burstJudged (k : Contract) (x : IntervalTotal) (fs : List FeedLimit) : List Judged :=
  fs.map fun f =>
    let ceiling := burstCeiling k.limits.burstPercent f.limit
    { scope := f.scope, value := burstValue x f.scope, bound := ceiling, exit := exitThreshold k.limits.hysteresis ceiling }

/-- The value of a scope in a computed demand. -/
def demandValue (d : DemandValue) : Scope → Nat
  | .pooled => d.value1
  | .feedA => d.value1
  | .feedB => d.value2

/-- The evaluated demand values with their limits and exits (R114). -/
def demandJudged (k : Contract) (d : DemandValue) (fs : List FeedLimit) : List Judged :=
  fs.map fun f =>
    { scope := f.scope, value := demandValue d f.scope, bound := f.limit, exit := exitThreshold k.limits.hysteresis f.limit }

/-- What TL hands ES for the evaluated feeds (R128). -/
def handedFeeds (k : Contract) (x : IntervalTotal) (fs : List FeedLimit) : List HandedFeed :=
  fs.map fun f =>
    { scope := f.scope, value := burstValue x f.scope, limit := f.limit, exit := exitThreshold k.limits.hysteresis f.limit }

/-- A demand computation over the ring entries used; `il` is the interval length in force (R111). -/
def computeDemand (w : WindowFields) (il : Nat) (c : Period) (used : List RingEntry) : DemandValue :=
  let seconds := w.buckets * w.bucketLength * il
  let a := (used.map RingEntry.energyA).sum
  let b := (used.map RingEntry.energyB).sum
  match w.cls with
  | .pooled => { cls := .pooled, value1 := clampWatts ((a + b) / seconds), value2 := 0, period := c }
  | .perFeed => { cls := .perFeed, value1 := clampWatts (a / seconds), value2 := clampWatts (b / seconds), period := c }

/-- The value the peak demand is compared with (R112). -/
def peakCandidate (d : DemandValue) : Nat :=
  match d.cls with
  | .pooled => d.value1
  | .perFeed => clampWatts (d.value1 + d.value2)

/-- The peak demand after a computation (R112). -/
def updatePeak (old : Option PeakDemand) (d : DemandValue) : PeakDemand :=
  match old with
  | none => { watts := peakCandidate d, period := d.period }
  | some p => if p.watts < peakCandidate d then { watts := peakCandidate d, period := d.period } else p

/-! ### The bucket and the ring (R106 to R109) -/

/-- Periods have passed unsettled since the tenant's previous settle (R106). -/
def discontinuous (last : Option Period) (c : Period) : Bool :=
  match last with
  | none => false
  | some p => decide (c ≠ p + 1)

/-- The bucket after the Interval Total of the settle has entered it (R106, R141). -/
def fillBucket (r : Tenant) (x : IntervalTotal) (bothDown : Bool) : Bucket :=
  { energyA := satAdd Config.energyMax r.bucket.energyA x.energyA
    energyB := satAdd Config.energyMax r.bucket.energyB x.energyB
    count := r.bucket.count + 1
    incomplete := r.bucket.incomplete || x.incomplete || discontinuous r.lastSettled x.period || bothDown }

/-- The ring entry of a closed bucket (R107). -/
def Bucket.entry (b : Bucket) (c : Period) : RingEntry :=
  { energyA := b.energyA, energyB := b.energyB, incomplete := b.incomplete, endPeriod := c }

/-- A ring entry placed by the window mode: the ring after it, and the entries of a demand computation if one is made (R108, R109). -/
def placeEntry (w : WindowFields) (ring : List RingEntry) (e : RingEntry) : List RingEntry × Option (List RingEntry) :=
  match w.mode with
  | .rolling =>
    let ring' := if ring.length < w.buckets then ring ++ [e] else ring.drop 1 ++ [e]
    (ring', if ring'.length = w.buckets then some ring' else none)
  | .block =>
    let ring' := ring ++ [e]
    if ring'.length = w.buckets then ([], some ring') else (ring', none)

/-! ### The exceedance machines (R118 to R124) -/

/-- The outcome of one evaluation of a machine: the machine after it, what ES hears of, and the breach it closed. -/
structure MachineStep where
  machine : ExceedanceMachine
  move : Option Move
  closed : Option OpenBreach
  deriving DecidableEq, Repr

/-- An evaluation without a move. -/
def MachineStep.still (m : ExceedanceMachine) : MachineStep := { machine := m, move := none, closed := none }

/-- The machine enters BREACH (R119). -/
def enterBreach (c : Period) (ev : Evaluation) : MachineStep :=
  { machine := { state := .breach, count := 0, breach := some { start := c, peak := ev.peak, feeds := ev.feedsOver, shed := false } }
    move := some .entry, closed := none }

/-- The machine clears, and the breach it had open is closed (R124). -/
def clearBreach (b : Option OpenBreach) : MachineStep := { machine := ExceedanceMachine.initial, move := some .clear, closed := b }

/-- The open breach kept up to date (R123). -/
def upkeep (ev : Evaluation) (b : OpenBreach) : OpenBreach := { b with peak := max b.peak ev.peak, feeds := b.feeds.union ev.feedsOver }

/-- One evaluation of a machine with grace `g` and ease count `e` at the settle of period `c` (R118, R120, R121, R122). -/
def evalMachine (g e : Nat) (c : Period) (complete : Bool) (ev : Evaluation) (m : ExceedanceMachine) : MachineStep :=
  let b := m.breach.map (upkeep ev)
  match m.state with
  | .clear =>
    if ev.band = .above then
      if g ≤ 1 then enterBreach c ev else .still { state := .pending, count := 1, breach := none }
    else .still m
  | .pending =>
    if ev.band = .above then
      if g ≤ m.count + 1 then enterBreach c ev else .still { m with count := m.count + 1 }
    else .still ExceedanceMachine.initial
  | .breach =>
    if ev.band = .atExit ∧ complete = true then
      if e ≤ 1 then clearBreach b else .still { state := .easing, count := 1, breach := b }
    else .still { m with breach := b }
  | .easing =>
    if ev.band = .atExit then
      if complete = true then
        if e ≤ m.count + 1 then clearBreach b else .still { m with count := m.count + 1, breach := b }
      else .still { m with breach := b }
    else { machine := { state := .breach, count := 0, breach := b }, move := some .back, closed := none }

/-! ### The breach log (R126, R127) -/

/-- A breach as the log keeps it; the duration is taken modulo 65,536 (R124). -/
def closedBreach (kind : MachineKind) (last : Period) (outcome : BreachOutcome) (b : OpenBreach) : ClosedBreach :=
  { kind := kind, feeds := b.feeds, start := b.start, duration := (last - b.start).toNat, peak := b.peak, outcome := outcome }

/-- An entry appended to the log, which keeps the last four (R127). -/
def appendBreach (log : List ClosedBreach) (e : ClosedBreach) : List ClosedBreach :=
  log.drop (log.length + 1 - Config.breachLogDepth) ++ [e]

/-- The log after a breach, if there is one, has been closed. -/
def logBreach (kind : MachineKind) (last : OpenBreach → Period) (outcome : OpenBreach → BreachOutcome) (b : Option OpenBreach)
    (log : List ClosedBreach) : List ClosedBreach :=
  match b with
  | none => log
  | some b => appendBreach log (closedBreach kind (last b) (outcome b) b)

/-- The outcome of a breach that clears (R124). -/
def clearOutcome (b : OpenBreach) : BreachOutcome := if b.shed then .shed else .cleared

/-- The open breaches of both machines closed by an order, BURST first, and both machines CLEAR (R90, R97). -/
def closeMachines (outcome : BreachOutcome) (r : Tenant) : Tenant :=
  let last : OpenBreach → Period := fun b => r.lastSettled.getD b.start
  { r with
    breachLog := logBreach .demand last (fun _ => outcome) r.demand.breach
      (logBreach .burst last (fun _ => outcome) r.burst.breach r.breachLog)
    burst := ExceedanceMachine.initial
    demand := ExceedanceMachine.initial }

end Sys2Proof.Machine
end

