-- ==== Sys2Proof/Machine/Enforcement.lean ====
section
/-! DEFINITION. The Enforcement Sequencer: triggers, arming, relief, shedding, holding, restoring (chapter 8). -/

namespace Sys2Proof.Machine

/-! ### What TL hands on (R128) -/

/-- A transition as TL hands it to ES; `back` is RETURN (R128). -/
structure Transition where
  machine : MachineKind
  move : Move
  deriving DecidableEq, Repr

/-! ### The places ES writes -/

def setStage (t : Nat) (g : Stage) (s : State) : State := s.setEsc t { s.esc t with stage := g }

def clearAwaiting (t : Nat) (s : State) : State := s.setEsc t { s.esc t with awaiting := none }

def setAwaiting (t : Nat) (w : Awaiting) (s : State) : State := s.setEsc t { s.esc t with awaiting := some w }

/-- Both machines of the tenant are CLEAR (R150, R155). -/
def Tenant.quiet (r : Tenant) : Bool := decide (r.burst.state = .clear ∧ r.demand.state = .clear)

/-! ### The shed list (R145) -/

/-- An outlet stands in the shed list of a tenant: BOUND to it alone with priority 1 to 7. -/
def inShedList (t : Nat) (o : Outlet) : Bool :=
  decide (o.binding = .bound ∧ o.tenants = [t] ∧ 1 ≤ o.priority ∧ o.priority ≤ 7)

/-- The first outlet sheds no later than the second: higher priority, then lower bind sequence, then lower address. -/
def shedsFirst (x y : Nat × Outlet) : Bool :=
  decide (y.2.priority < x.2.priority ∨
    (x.2.priority = y.2.priority ∧ (x.2.bindSeq < y.2.bindSeq ∨ (x.2.bindSeq = y.2.bindSeq ∧ x.1 ≤ y.1))))

/-- An outlet put at its place of the shed list. -/
def insertShed (x : Nat × Outlet) : List (Nat × Outlet) → List (Nat × Outlet)
  | [] => [x]
  | y :: rest => if shedsFirst x y then x :: y :: rest else y :: insertShed x rest

/-- The shed list of a tenant, from the Outlet Table as it stands (R145). -/
def shedList (t : Nat) (s : State) : List (Nat × Outlet) :=
  (s.ot.outlets.filter fun p => inShedList t p.2).foldr insertShed []

/-- The first outlet of the shed list that is ON, unmarked and not in the failed set (R153 case 3). -/
def candidate (t : Nat) (s : State) : Option Nat :=
  ((shedList t s).find? fun p =>
    decide (p.2.switchState = .on ∧ p.2.shedMark = false ∧ addrOfKey p.1 ∉ (s.esc t).failed)).map Prod.fst

/-! ### Relief (R151) -/

/-- The feeds over recorded in the tenant's open breaches. -/
def Tenant.offending (r : Tenant) : FeedSet :=
  let none' : FeedSet := { a := false, b := false }
  FeedSet.union ((r.burst.breach.map OpenBreach.feeds).getD none') ((r.demand.breach.map OpenBreach.feeds).getD none')

/-- A scope of an evaluation belongs to a set of feeds; the pooled value belongs to every set. -/
def scopeIn (f : FeedSet) : Scope → Bool
  | .pooled => true
  | .feedA => f.a
  | .feedB => f.b

/-- The relief feeds: the offending feeds that are evaluated, or every evaluated feed when there is none. -/
def reliefFeeds (r : Tenant) (handed : List HandedFeed) : List HandedFeed :=
  let offending := handed.filter fun x => scopeIn r.offending x.scope
  if offending = [] then handed else offending

/-- The tenant is relieved; with no evaluated feed it is not. -/
def relieved (r : Tenant) (handed : List HandedFeed) : Bool :=
  decide (handed ≠ []) && (reliefFeeds r handed).all fun x => decide (x.value ≤ x.exit)

/-- The tenant is over; with no evaluated feed it is not. -/
def isOver (r : Tenant) (handed : List HandedFeed) : Bool :=
  (reliefFeeds r handed).any fun x => decide (x.limit < x.value)

/-! ### Shedding (R146, R152, R153, R154) -/

/-- The shed flag of a machine's open breach is set (R123, R146). -/
def ExceedanceMachine.markShed (m : ExceedanceMachine) : ExceedanceMachine :=
  { m with breach := m.breach.map fun b => { b with shed := true } }

/-- The shed mark of an outlet is set, with the three things ES does in the same step (R146). -/
def shedMark (t key : Nat) (s : State) : State :=
  let s := s.setOutlet key { s.outlet key with shedMark := true }
  let s := s.setEsc t { s.esc t with
    shedOrder := (s.esc t).shedOrder ++ [addrOfKey key]
    awaiting := some { addr := addrOfKey key, direction := .off, age := 0 } }
  s.setTenant t { s.tenant t with burst := (s.tenant t).burst.markShed, demand := (s.tenant t).demand.markShed }

/-- An OFF add request for a candidate; TAKEN and MERGED mark it, REFUSED does nothing (R153). -/
def placeOff (t key : Nat) (s : State) : State :=
  let e : SwitchEntry := { addr := addrOfKey key, direction := .off, tenant := t }
  match addAnswer s.mlc.switchQueue e with
  | .refused => s
  | _ => shedMark t key (addRequest e s)

/-- The tenant's OFF entries are withdrawn and the awaiting outlet is cleared (R154). -/
def leaveShedding (t : Nat) (s : State) : State := clearAwaiting t (withdrawRequest t s)

/-- SHEDDING ends in SHED_HOLD with a cause (R152 cases 1 and 4). -/
def settleShedding (c : TenantCause) (t : Nat) (s : State) : State :=
  latchTenant c t (leaveShedding t (setStage t .shedHold s))

/-- Cases 3 and 4: a candidate is placed, or SHED_EXHAUSTED; neither while no feed is evaluated (R152, R153). -/
def chooseCandidate (t : Nat) (handed : List HandedFeed) (s : State) : State :=
  if handed = [] then s
  else
    match candidate t s with
    | some key => placeOff t key s
    | none => settleShedding .shedExhausted t s

/-- The awaiting outlet has not confirmed OFF within the confirmation limit (R153). -/
def failOutlet (t : Nat) (a : OutletAddr) (s : State) : State :=
  let e := s.esc t
  clearAwaiting t (latchTenant .shedFailed t (s.setEsc t { e with failed := if a ∈ e.failed then e.failed else e.failed ++ [a] }))

/-- Case 2: the awaiting outlet is judged, released first (R153). -/
def judgeOff (t : Nat) (handed : List HandedFeed) (w : Awaiting) (s : State) : State :=
  let o := s.outlet w.addr.key
  if o.shedMark = false ∨ o.switchState = .off then chooseCandidate t handed (clearAwaiting t s)
  else if w.age + 1 < Config.confirmLimit then setAwaiting t { w with age := w.age + 1 } s
  else chooseCandidate t handed (failOutlet t w.addr s)

/-- The SHEDDING step (R152). -/
def sheddingStep (t : Nat) (handed : List HandedFeed) (s : State) : State :=
  if relieved (s.tenant t) handed then settleShedding .shedSettled t s
  else
    match (s.esc t).awaiting with
    | some w => judgeOff t handed w s
    | none => chooseCandidate t handed s

/-- The stage becomes SHEDDING and SHED_STARTED is latched (R148, R150, R155). -/
def enterShedding (t : Nat) (s : State) : State :=
  latchTenant .shedStarted t (s.setEsc t { s.esc t with stage := .shedding, countdown := none })

/-! ### Arming and holding (R150, R155) -/

/-- The ARMED step (R150). -/
def armedStep (t : Nat) (handed : List HandedFeed) (s : State) : State :=
  if (s.tenant t).quiet then s.setEsc t { s.esc t with stage := .idle, countdown := none }
  else
    match (s.esc t).countdown with
    | some c => if c ≤ 1 then sheddingStep t handed (enterShedding t s) else s.setEsc t { s.esc t with countdown := some (c - 1) }
    | none => s

/-- The SHED_HOLD step (R155). -/
def holdStep (t : Nat) (handed : List HandedFeed) (s : State) : State :=
  if isOver (s.tenant t) handed ∧ (s.tenant t).demand.state = .breach then sheddingStep t handed (enterShedding t s)
  else if (s.tenant t).quiet ∧ (s.esc t).shedOrder = [] then setStage t .idle s
  else s

/-! ### Restoring (R156, R157, R158) -/

def Tallies.zero : Tallies := { confirmed := 0, alreadyOn := 0, atLimit := 0 }

/-- The outcome of a restore whose shed order is empty (R158). -/
def Tallies.outcome (k : Tallies) : CompletionOutcome := if k.atLimit = 0 then .restored else .partialRestore

/-- The completion of a restore (R158, R159). -/
def restoreCompletion (t : Nat) (tag : Byte) (outcome : CompletionOutcome) (k : Tallies) : Completion :=
  { code := codeRestoreOutlets, tag := tag, outcome := outcome, body := .restore t k }

/-- ES drops what it holds for a restore and the stage becomes IDLE (R158, R159). -/
def dropRestore (t : Nat) (s : State) : State :=
  s.setEsc t { s.esc t with stage := .idle, awaiting := none, cursor := none, tallies := none }

def setSlot (t : Nat) (x : LongSlot) (s : State) : State := s.setTenant t { s.tenant t with slot := x }

/-- The shed order is empty: the completion is placed and the stage becomes IDLE, or the restore waits for room (R158). -/
def restoreEnd (t : Nat) (s : State) : State :=
  match (s.tenant t).slot with
  | .restoreOutlets tag =>
    let k := (s.esc t).tallies.getD Tallies.zero
    if s.completionRoom then setSlot t .empty (dropRestore t (placeCompletion (restoreCompletion t tag k.outcome k) s))
    else s.setEsc t { s.esc t with cursor := none }
  | _ => s

/-- An outlet is unmarked and leaves the shed order, and a tally rises (R157). -/
def unmark (t : Nat) (a : OutletAddr) (tally : Tallies → Tallies) (s : State) : State :=
  let s := s.setOutlet a.key { s.outlet a.key with shedMark := false }
  s.setEsc t { s.esc t with
    shedOrder := (s.esc t).shedOrder.filter fun x => decide (x ≠ a)
    tallies := (s.esc t).tallies.map tally
    awaiting := none }

/-- An ON add request for the entry at the cursor (R157). -/
def placeOn (t : Nat) (a : OutletAddr) (s : State) : State :=
  let e : SwitchEntry := { addr := a, direction := .on, tenant := t }
  match addAnswer s.mlc.switchQueue e with
  | .refused => s
  | _ => setAwaiting t { addr := a, direction := .on, age := 0 } (addRequest e s)

/-- Going on: the shed order, newest first, up to the first outlet that is not on (R157). -/
def goOn (t : Nat) : List OutletAddr → State → State
  | [], s => restoreEnd t s
  | a :: rest, s =>
    let s := s.setEsc t { s.esc t with cursor := some a }
    if (s.outlet a.key).switchState = .on then goOn t rest (unmark t a (fun k => { k with alreadyOn := k.alreadyOn + 1 }) s)
    else placeOn t a s

/-- Going on from the newest entry still in the shed order (R157). -/
def goOnNewest (t : Nat) (s : State) : State := goOn t (s.esc t).shedOrder.reverse s

/-- The awaiting outlet of a restore is judged, released first (R157). -/
def judgeOn (t : Nat) (w : Awaiting) (s : State) : State :=
  let o := s.outlet w.addr.key
  if o.shedMark = false then goOnNewest t (clearAwaiting t s)
  else if o.switchState = .on then goOnNewest t (unmark t w.addr (fun k => { k with confirmed := k.confirmed + 1 }) s)
  else if w.age + 1 < Config.confirmLimit then setAwaiting t { w with age := w.age + 1 } s
  else goOnNewest t (unmark t w.addr (fun k => { k with atLimit := k.atLimit + 1 }) s)

/-- The RESTORING step (R157). -/
def restoringStep (t : Nat) (s : State) : State :=
  match (s.esc t).awaiting with
  | some w => judgeOn t w s
  | none => goOnNewest t s

/-! ### The step of a settle (R147, R148, R149) -/

/-- A transition is a trigger under the escalation source in force (R148). -/
def isTrigger (k : LimitFields) (x : Transition) : Bool :=
  decide (x.move = .entry) && (decide (x.machine = .demand) || k.sourceBoth)

/-- The countdown of a delay code: 2^(code+2) settles (5.3, R148). -/
def armDelay (code : Nat) : Nat := 2 ^ (code + 2)

/-- A transition taken by ES: a trigger in IDLE applies the escalation action, anything else changes nothing (R148, R149). -/
def takeTransition (k : LimitFields) (t : Nat) (s : State) (x : Transition) : State :=
  if isTrigger k x ∧ (s.esc t).stage = .idle then
    match k.action with
    | .noticeOnly => s
    | .delayedShed => s.setEsc t { s.esc t with stage := .armed, countdown := some (armDelay k.delayCode) }
    | .immediateShed => enterShedding t s
  else s

/-- The stage step of an ACTIVE settle (R147 part 2). -/
def stageStep (t : Nat) (handed : List HandedFeed) (s : State) : State :=
  match (s.esc t).stage with
  | .idle => s
  | .armed => armedStep t handed s
  | .shedding => sheddingStep t handed s
  | .shedHold => holdStep t handed s
  | .restoring => restoringStep t s

/-- Step 6 of a settle of an ACTIVE tenant; a countdown loaded in part 1 is not lowered in part 2 (R147). -/
def esActive (k : LimitFields) (t : Nat) (xs : List Transition) (handed : List HandedFeed) (s : State) : State :=
  let s' := xs.foldl (takeTransition k t) s
  if (s.esc t).stage ≠ .armed ∧ (s'.esc t).stage = .armed then s' else stageStep t handed s'

/-- Step 6 of a settle of a HELD or CLOSING tenant: only a restore goes on (R147). -/
def esPassive (t : Nat) (s : State) : State := if (s.esc t).stage = .restoring then restoringStep t s else s

/-! ### The stage returned to IDLE (R159, R160) -/

/-- A restore ended by an order: its completion is placed, or owed in the slot (R159). -/
def abandonRestore (t : Nat) (s : State) : State :=
  match (s.tenant t).slot with
  | .restoreOutlets tag =>
    let k := (s.esc t).tallies.getD Tallies.zero
    let outcome := if (s.esc t).shedOrder = [] then k.outcome else .abandoned
    if s.completionRoom then setSlot t .empty (dropRestore t (placeCompletion (restoreCompletion t tag outcome k) s))
    else setSlot t (.owed .restoreOutlets tag outcome (some k)) (dropRestore t s)
  | _ => dropRestore t s

/-- The stage of a tenant becomes IDLE, whatever it was (R159). -/
def stageToIdle (t : Nat) (s : State) : State :=
  match (s.esc t).stage with
  | .idle => s
  | .armed => s.setEsc t { s.esc t with stage := .idle, countdown := none }
  | .shedding => leaveShedding t (setStage t .idle s)
  | .shedHold => setStage t .idle s
  | .restoring => abandonRestore t s

/-! ### RESTORE-OUTLETS (R156) -/

/-- Nothing is marked: the failed set is emptied and SHED_HOLD becomes IDLE (R156). -/
def restoreNothing (t : Nat) (s : State) : State :=
  let e := s.esc t
  s.setEsc t { e with failed := [], stage := if e.stage = .shedHold then .idle else e.stage }

/-- The restore begins at the newest entry of the shed order (R156). -/
def beginRestore (t : Nat) (tag : Byte) (s : State) : State :=
  setSlot t (.restoreOutlets tag) (s.setEsc t { s.esc t with
    stage := .restoring, failed := [], cursor := (s.esc t).shedOrder.getLast?, awaiting := none, tallies := some Tallies.zero })

/-- ES takes RESTORE-OUTLETS (R156). -/
def ownRestoreOutlets (tag : Byte) (t : Nat) (s : State) : State × Answer :=
  if validTenant t = false then (s, .plain .invalidParameter)
  else if s.locked t then (s, .plain .locked)
  else if (s.tenant t).state = .vacant ∨ (s.tenant t).state = .closing ∨ (s.esc t).stage = .armed ∨ (s.esc t).stage = .shedding then
    (s, .plain .incorrectState)
  else if (s.tenant t).slot ≠ .empty then (s, .plain .busy)
  else if (s.esc t).shedOrder = [] then (restoreNothing t s, .done [])
  else (beginRestore t tag s, .plain .accepted)

/-! ### The ends of the three counts (R150, R153, R157) -/

/-- The ARMED step of an ACTIVE tenant lowers the countdown to 0 (R150). -/
def armExpires (t : Nat) (s : State) : Bool :=
  decide ((s.tenant t).state = .active ∧ (s.esc t).stage = .armed ∧ (s.esc t).countdown = some 1 ∧ (s.tenant t).quiet = false)

/-- The awaiting outlet of a tenant is still marked, its switch state is not `target`, and its age reaches the limit at this step. -/
def atConfirmLimit (t : Nat) (target : SwitchState) (s : State) : Bool :=
  match (s.esc t).awaiting with
  | some w =>
    decide (Config.confirmLimit ≤ w.age + 1 ∧ (s.outlet w.addr.key).shedMark = true ∧ (s.outlet w.addr.key).switchState ≠ target)
  | none => false

/-- The SHEDDING step of an ACTIVE tenant fails the awaiting outlet (R153). -/
def shedFails (t : Nat) (handed : List HandedFeed) (s : State) : Bool :=
  decide ((s.tenant t).state = .active ∧ (s.esc t).stage = .shedding) && !relieved (s.tenant t) handed && atConfirmLimit t .off s

/-- The RESTORING step of the tenant unmarks the awaiting outlet at the limit (R157). -/
def restoreLimits (t : Nat) (s : State) : Bool := decide ((s.esc t).stage = .restoring) && atConfirmLimit t .on s

end Sys2Proof.Machine
end

