-- ==== Sys2Proof/Machine/Ledger.lean ====
section
/-! DEFINITION. The Tenant Ledger: the settle and the tenant orders (chapter 5). -/

namespace Sys2Proof.Machine

/-- A tenant record changed. -/
def onTenant (t : Nat) (f : Tenant → Tenant) (s : State) : State := s.setTenant t (f (s.tenant t))

/-! ### Steps 1 to 3 of a settle (R89, R102, R138 to R142) -/

/-- Step 1: a pending contract replaces the limit fields in force and its mask goes to NU (R89). -/
def applyPending (t : Nat) (s : State) : State :=
  match (s.tenant t).contract, (s.tenant t).pendingLimits with
  | some k, some p => setTenantMask t p.mask (onTenant t (fun r => { r with contract := some { k with limits := p }, pendingLimits := none }) s)
  | _, _ => s

/-- An accumulator reaches 2^48 − 1 J at an addition (R102). -/
def saturates (old add : Nat) : Bool := decide (old < Config.energyMax ∧ satAdd Config.energyMax old add = Config.energyMax)

/-- Step 2: the lifetime energies, with ACCUMULATOR_SATURATED (R102). -/
def addLifetime (x : IntervalTotal) (s : State) : State :=
  let r := s.tenant x.tenant
  let s' := s.setTenant x.tenant { r with
    lifetimeA := satAdd Config.energyMax r.lifetimeA x.energyA
    lifetimeB := satAdd Config.energyMax r.lifetimeB x.energyB }
  if saturates r.lifetimeA x.energyA || saturates r.lifetimeB x.energyB then latchTenant .accumulatorSaturated x.tenant s' else s'

/-- Step 3: the allowance fields, with FAILOVER_ALLOWANCE while it holds (R138, R139, R142). -/
def applyAllowance (t : Nat) (a : AllowanceStep) (s : State) : State :=
  let s' := onTenant t (fun r => { r with coveredFeed := a.coveredFeed, allowanceTail := a.tail, allowanceHeld := a.held }) s
  if a.held then latchTenant .failoverAllowance t s' else s'

/-! ### Steps 4 and 5 (R106 to R124) -/

def Tenant.machine (r : Tenant) : MachineKind → ExceedanceMachine
  | .burst => r.burst
  | .demand => r.demand

def Tenant.setMachine (r : Tenant) (kind : MachineKind) (m : ExceedanceMachine) : Tenant :=
  match kind with
  | .burst => { r with burst := m }
  | .demand => { r with demand := m }

/-- The cause of a machine's entry into BREACH (R119). -/
def breachCause : MachineKind → TenantCause
  | .burst => .burstBreach
  | .demand => .demandBreach

/-- The grace of a machine (R117). -/
def graceOf (k : LimitFields) : MachineKind → Nat
  | .burst => k.burstGrace
  | .demand => k.demandGrace

/-- The cause that a move latches (R119, R124). -/
def latchMove (t : Nat) (kind : MachineKind) (m : Option Move) (s : State) : State :=
  match m with
  | some .entry => latchTenant (breachCause kind) t s
  | some .clear => latchTenant .breachCleared t s
  | _ => s

/-- One evaluation of a machine of a tenant, and the transition handed to ES; none without a classification (R117, R141). -/
def evaluate (k : LimitFields) (t : Nat) (kind : MachineKind) (c : Period) (complete : Bool) (ev : Option Evaluation) (s : State) :
    State × List Transition :=
  match ev with
  | none => (s, [])
  | some ev =>
    let r := s.tenant t
    let x := evalMachine (graceOf k kind) k.easeCount c complete ev (r.machine kind)
    let r' := { r.setMachine kind x.machine with breachLog := logBreach kind (fun _ => c) clearOutcome x.closed r.breachLog }
    (latchMove t kind x.move (s.setTenant t r'),
     match x.move with | none => [] | some m => [{ machine := kind, move := m }])

/-- Step 4 of an ACTIVE settle (R113, R117). -/
def burstCheck (k : Contract) (x : IntervalTotal) (fs : List FeedLimit) (s : State) : State × List Transition :=
  evaluate k.limits x.tenant .burst x.period (!x.incomplete) (classify (burstJudged k x fs)) s

/-- A demand computation: last demand, peak and, for an ACTIVE tenant, the DEMAND machine (R111, R112, R117). -/
def demandComputation (active : Bool) (k : Contract) (x : IntervalTotal) (fs : List FeedLimit) (used : List RingEntry) (s : State) :
    State × List Transition :=
  let d := computeDemand k.window s.ct.config.il x.period used
  let s' := onTenant x.tenant (fun r => { r with lastDemand := some d, peak := some (updatePeak r.peak d) }) s
  if active then
    evaluate k.limits x.tenant .demand x.period (!used.any RingEntry.incomplete) (classify (demandJudged k d fs)) s'
  else (s', [])

/-- Step 5: the bucket, the ring, the demand computation (R106 to R112). -/
def bucketStep (active bothDown : Bool) (k : Contract) (x : IntervalTotal) (fs : List FeedLimit) (s : State) :
    State × List Transition :=
  let r := s.tenant x.tenant
  let b := fillBucket r x bothDown
  if b.count = k.window.bucketLength then
    let p := placeEntry k.window r.ring (b.entry x.period)
    let s' := s.setTenant x.tenant { r with bucket := Bucket.initial, ring := p.1 }
    match p.2 with
    | some used => demandComputation active k x fs used s'
    | none => (s', [])
  else (s.setTenant x.tenant { r with bucket := b }, [])

/-! ### Step 7: the summary (R103, R199) -/

/-- The summary record of a settle. -/
def summaryOf (x : IntervalTotal) (s : State) : Summary :=
  let r := s.tenant x.tenant
  { tenant := x.tenant, period := x.period, energyA := x.energyA, energyB := x.energyB, rateA := clampWatts x.rateA,
    rateB := clampWatts x.rateB, demand := r.lastDemand, burstState := r.burst.state, demandState := r.demand.state,
    stage := (s.esc x.tenant).stage, incomplete := x.incomplete }

/-- A summary record handed to TP; a full queue drops it and latches SUMMARY_LOST (R199). -/
def placeSummary (r : Summary) (s : State) : State :=
  if s.tp.summaries.length < Config.summaryDepth then s.onTp fun p => { p with summaries := p.summaries ++ [r] }
  else latchUnit .summaryLost s

def summaryStep (k : Contract) (x : IntervalTotal) (s : State) : State :=
  if k.limits.summary then placeSummary (summaryOf x s) s else s

/-! ### Step 8: the long-order slot (R94, R96, R98) -/

/-- The statement of a tenant, from the record as it stands (R94). -/
def statementOf (t : Nat) (c : Period) (s : State) : Statement :=
  let r := s.tenant t
  { tenant := t, period := c, state := r.state
    cls := (r.contract.map fun k => k.window.cls).getD .pooled
    capacity1 := (r.contract.map fun k => k.limits.capacity1).getD 0
    capacity2 := (r.contract.map fun k => k.limits.capacity2).getD 0
    lifetimeA := r.lifetimeA, lifetimeB := r.lifetimeB
    ringEntries := r.ring.length, ringSumA := (r.ring.map RingEntry.energyA).sum, ringSumB := (r.ring.map RingEntry.energyB).sum
    ringIncomplete := (r.ring.filter RingEntry.incomplete).length
    lastDemand := r.lastDemand, peak := r.peak, burstState := r.burst.state, burstCount := r.burst.count
    demandState := r.demand.state, demandCount := r.demand.count, breachLog := r.breachLog, stage := (s.esc t).stage
    coveredFeed := r.coveredFeed, allowanceTail := r.allowanceTail }

/-- The passage to VACANT, with what NU, ES and OAE do at it (R77, R96, R162, R177). -/
def vacate (t : Nat) (s : State) : State :=
  let s := (s.setTenant t Tenant.initial).onTl fun l => { l with count := l.count - 1 }
  let s := vacateSource t s
  let s := s.setEsc t { s.esc t with failed := [] }
  s.setAccount t { s.account t with lastIncomplete := false }

/-- A STATEMENT served: placed, the slot emptied and the peak cleared if asked; or kept (R94). -/
def serveStatement (t : Nat) (c : Period) (tag : Byte) (clearPeak : Bool) (s : State) : State :=
  if s.completionRoom then
    onTenant t (fun r => { r with slot := .empty, peak := if clearPeak then none else r.peak })
      (placeCompletion { code := codeStatement, tag := tag, outcome := .stated, body := .statement (statementOf t c s) } s)
  else s

/-- A close served: the final statement placed and the tenant VACANT; or tried again at the next settle (R96). -/
def serveClose (t : Nat) (c : Period) (tag : Byte) (s : State) : State :=
  if s.completionRoom then
    vacate t (placeCompletion { code := codeCloseTenant, tag := tag, outcome := .closed, body := .statement (statementOf t c s) } s)
  else s

/-- The body of an owed completion: the tallies of a restore, the tenant alone of any other order. R198 says that an abandoned order's completion
has no body, the layout of 11.7 gives it the tenant's byte: the model sends that byte, its choice (log entry 28). -/
def owedBody (t : Nat) (order : LongOrder) (tallies : Option Tallies) : CompletionBody :=
  match order with
  | .restoreOutlets => .restore t (tallies.getD Tallies.zero)
  | _ => .tenant t

/-- The completion a slot owes (R98, R159). -/
def owedCompletion (t : Nat) (order : LongOrder) (tag : Byte) (outcome : CompletionOutcome) (tallies : Option Tallies) : Completion :=
  { code := order.code, tag := tag, outcome := outcome, body := owedBody t order tallies }

/-- An owed completion offered to TP again (R98). -/
def serveOwed (t : Nat) (c : Completion) (s : State) : State :=
  if s.completionRoom then setSlot t .empty (placeCompletion c s) else s

/-- Step 8 (R94, R96, R98); a CLOSING tenant with an empty slot passes to VACANT at once. -/
def slotStep (t : Nat) (c : Period) (s : State) : State :=
  match (s.tenant t).slot with
  | .empty => if (s.tenant t).state = .closing then vacate t s else s
  | .statement tag clearPeak => serveStatement t c tag clearPeak s
  | .closeTenant tag => serveClose t c tag s
  | .restoreOutlets _ => s
  | .owed order tag outcome tallies => serveOwed t (owedCompletion t order tag outcome tallies) s

/-! ### The settle (R99, R100, R101) -/

/-- Steps 4 and 5 for an ACTIVE tenant, with the transitions that TL hands ES (R128). -/
def evaluateActive (k : Contract) (holds : Allowance) (x : IntervalTotal) (s : State) : State × List Transition :=
  let p := burstCheck k x (feedLimits k holds) s
  let q := bucketStep true (decide (holds = .both)) k x (feedLimits k holds) p.1
  (q.1, p.2 ++ q.2)

/-- Steps 4 to 6 for an ACTIVE tenant. -/
def judgeActive (k : Contract) (holds : Allowance) (x : IntervalTotal) (s : State) : State :=
  let p := evaluateActive k holds x s
  esActive k.limits x.tenant p.2 (handedFeeds k x (feedLimits k holds)) p.1

/-- Steps 5 and 6 for a HELD or CLOSING tenant (R101). -/
def recordPassive (k : Contract) (holds : Allowance) (x : IntervalTotal) (s : State) : State :=
  esPassive x.tenant (bucketStep false (decide (holds = .both)) k x [] s).1

/-- Steps 3 to 8 under the contract in force; the last settled period is written before the slot is served, whose last act may be the
passage to VACANT. -/
def settleUnder (k : Contract) (x : IntervalTotal) (s : State) : State :=
  let a := allowanceStep k.window (s.tenant x.tenant) x.feedA x.feedB
  let s := applyAllowance x.tenant a s
  let s := if (s.tenant x.tenant).state = .active then judgeActive k a.holds x s else recordPassive k a.holds x s
  let s := summaryStep k x s
  slotStep x.tenant x.period (onTenant x.tenant (fun r => { r with lastSettled := some x.period }) s)

/-- The settle of an Interval Total; the total of a VACANT tenant is discarded (R99). -/
def settle (s : State) (x : IntervalTotal) : State :=
  if (s.tenant x.tenant).state = .vacant then s
  else
    let s := addLifetime x (applyPending x.tenant s)
    match (s.tenant x.tenant).contract with
    | some k => settleUnder k x s
    | none => s

/-- What a settle has come to where ES begins the stage step of the tenant (R147 part 2), with what TL hands for each evaluated feed; at a
settle of a HELD or CLOSING tenant TL hands nothing. -/
structure StageEntry where
  state : State
  handed : List HandedFeed
  deriving DecidableEq, Repr

/-- Steps 3 to 5 under the contract in force, with part 1 of step 6. -/
def stageEntryUnder (k : Contract) (x : IntervalTotal) (s : State) : StageEntry :=
  let a := allowanceStep k.window (s.tenant x.tenant) x.feedA x.feedB
  let s := applyAllowance x.tenant a s
  if (s.tenant x.tenant).state = .active then
    let p := evaluateActive k a.holds x s
    { state := p.2.foldl (takeTransition k.limits x.tenant) p.1, handed := handedFeeds k x (feedLimits k a.holds) }
  else { state := (bucketStep false (decide (a.holds = .both)) k x [] s).1, handed := [] }

/-- The settle of an Interval Total up to the stage step; none where the total is discarded. -/
def stageEntry (s : State) (x : IntervalTotal) : Option StageEntry :=
  if (s.tenant x.tenant).state = .vacant then none
  else
    let s := addLifetime x (applyPending x.tenant s)
    (s.tenant x.tenant).contract.map fun k => stageEntryUnder k x s

/-! ### SET-CONTRACT (R85 to R88) -/

/-- Capacity 2 is 0 for a POOLED contract and 1 to 1,048,575 for a PER_FEED one (R85). -/
def capacityTwoOk (f : ContractFields) : Bool :=
  if f.cls = 0 then decide (f.capacity2 = 0) else decide (1 ≤ f.capacity2 ∧ f.capacity2 ≤ 1048575)

/-- Every field of the order lies in its range (5.3, R85, R204). -/
def contractInRange (f : ContractFields) : Bool :=
  decide (f.cls ≤ 1 ∧ 1 ≤ f.capacity1 ∧ f.capacity1 ≤ 1048575 ∧ 100 ≤ f.burstPercent ∧ f.burstPercent ≤ 250)
    && capacityTwoOk f
    && decide (f.hysteresis ≤ 255 ∧ f.demandGrace ≤ 15 ∧ f.burstGrace ≤ 15 ∧ 1 ≤ f.easeCount ∧ f.easeCount ≤ 15)
    && decide (1 ≤ f.bucketLength ∧ f.bucketLength ≤ 255 ∧ 1 ≤ f.buckets ∧ f.buckets ≤ 16 ∧ f.windowMode ≤ 1)
    && decide (f.action ≤ 2 ∧ f.delayCode ≤ 7 ∧ f.source ≤ 1 ∧ f.summary ≤ 1)
    && decide (f.mask &&& ~~~allTenantCauses = 0#16)

/-- The window fields an order in range carries. -/
def windowOf (f : ContractFields) : WindowFields :=
  { cls := if f.cls = 0 then .pooled else .perFeed, bucketLength := f.bucketLength, buckets := f.buckets,
    mode := if f.windowMode = 0 then .rolling else .block }

/-- The limit fields an order in range carries. -/
def limitsOf (f : ContractFields) : LimitFields :=
  { capacity1 := f.capacity1, capacity2 := f.capacity2, burstPercent := f.burstPercent, hysteresis := f.hysteresis,
    demandGrace := f.demandGrace, burstGrace := f.burstGrace, easeCount := f.easeCount,
    action := if f.action = 0 then .noticeOnly else if f.action = 1 then .delayedShed else .immediateShed,
    delayCode := f.delayCode, sourceBoth := decide (f.source = 1), summary := decide (f.summary = 1), mask := f.mask }

/-- The contract an order in range carries. -/
def contractOf (f : ContractFields) : Contract := { window := windowOf f, limits := limitsOf f }

/-- The tenant is created (R86). -/
def createTenant (t : Nat) (k : Contract) (s : State) : State :=
  setTenantMask t k.limits.mask
    ((s.setTenant t { Tenant.initial with state := .active, contract := some k }).onTl fun l => { l with count := l.count + 1 })

/-- A HELD tenant's record under a new contract; a window change empties the window (R88). -/
def replaceContract (k : Contract) (r : Tenant) : Tenant :=
  let r' := { r with contract := some k, pendingLimits := none }
  if r.contract.map Contract.window = some k.window then r'
  else
    { r' with
      ring := [], bucket := Bucket.initial, lastDemand := none
      allowanceTail := min r.allowanceTail (k.window.buckets * k.window.bucketLength) }

/-- The result of SET-CONTRACT (11.6). -/
def immediateResult : List Byte := [0#8]
def pendingResult : List Byte := [1#8]

/-- TL takes SET-CONTRACT (R85 to R88). -/
def ownSetContract (t : Nat) (f : ContractFields) (s : State) : State × Answer :=
  if validTenant t = false ∨ contractInRange f = false then (s, .plain .invalidParameter)
  else if s.locked t then (s, .plain .locked)
  else
    match (s.tenant t).state with
    | .closing => (s, .plain .busy)
    | .vacant => (createTenant t (contractOf f) s, .done immediateResult)
    | .held => (setTenantMask t f.mask (onTenant t (replaceContract (contractOf f)) s), .done immediateResult)
    | .active =>
      if (s.tenant t).contract.map Contract.window = some (windowOf f) then
        (onTenant t (fun r => { r with pendingLimits := some (limitsOf f) }) s, .done pendingResult)
      else (s, .plain .incorrectState)

/-! ### HOLD-TENANT, RESUME-TENANT (R90, R91) -/

/-- HOLD-TENANT accepted: machines, escalation, state (R90). -/
def holdTenant (t : Nat) (s : State) : State :=
  onTenant t (fun r => { r with state := .held }) (stageToIdle t (onTenant t (closeMachines .held) s))

/-- TL takes HOLD-TENANT (R90). -/
def ownHoldTenant (t : Nat) (s : State) : State × Answer :=
  if validTenant t = false then (s, .plain .invalidParameter)
  else if s.locked t then (s, .plain .locked)
  else if (s.tenant t).state ≠ .active then (s, .plain .incorrectState)
  else (holdTenant t s, .done [])

/-- TL takes RESUME-TENANT (R91). -/
def ownResumeTenant (t : Nat) (s : State) : State × Answer :=
  if validTenant t = false then (s, .plain .invalidParameter)
  else if s.locked t then (s, .plain .locked)
  else if (s.tenant t).state ≠ .held then (s, .plain .incorrectState)
  else (onTenant t (fun r => { r with state := .active }) s, .done [])

/-! ### STATEMENT, CLOSE-TENANT (R93, R95) -/

/-- TL takes STATEMENT (R93). -/
def ownStatement (tag : Byte) (t clearPeak : Nat) (s : State) : State × Answer :=
  if validTenant t = false ∨ 1 < clearPeak then (s, .plain .invalidParameter)
  else if clearPeak = 1 ∧ s.locked t then (s, .plain .locked)
  else if (s.tenant t).state = .vacant ∨ (s.tenant t).state = .closing then (s, .plain .incorrectState)
  else if (s.tenant t).slot ≠ .empty then (s, .plain .busy)
  else (setSlot t (.statement tag (decide (clearPeak = 1))) s, .plain .accepted)

/-- CLOSE-TENANT accepted (R95). -/
def closeTenant (tag : Byte) (t : Nat) (s : State) : State :=
  stageToIdle t (onTenant t (fun r => { r with stateBeforeClose := some r.state, slot := .closeTenant tag, state := .closing }) s)

/-- TL takes CLOSE-TENANT (R95). -/
def ownCloseTenant (tag : Byte) (t : Nat) (s : State) : State × Answer :=
  if validTenant t = false then (s, .plain .invalidParameter)
  else if s.locked t then (s, .plain .locked)
  else if (s.tenant t).state = .vacant ∨ (s.tenant t).state = .closing ∨ s.anyOutletNames t = true then (s, .plain .incorrectState)
  else if (s.tenant t).slot ≠ .empty then (s, .plain .busy)
  else (closeTenant tag t s, .plain .accepted)

/-! ### RESET-TENANT (R97, R98) -/

/-- A STATEMENT or CLOSE-TENANT abandoned: its completion placed, or owed in the slot (R98). -/
def abandonOrder (t : Nat) (order : LongOrder) (tag : Byte) (s : State) : State :=
  if s.completionRoom then setSlot t .empty (placeCompletion (owedCompletion t order tag .abandoned none) s)
  else setSlot t (.owed order tag .abandoned none) s

/-- Step 1: the slot (R97). -/
def resetSlot (t : Nat) (s : State) : State :=
  match (s.tenant t).slot with
  | .statement tag _ => abandonOrder t .statement tag s
  | .closeTenant tag => abandonOrder t .closeTenant tag s
  | .restoreOutlets _ => stageToIdle t s
  | _ => s

/-- Step 2: a CLOSING tenant returns to its state before close (R97). -/
def reopen (r : Tenant) : Tenant :=
  if r.state = .closing then { r with state := r.stateBeforeClose.getD .active } else r

/-- Step 4: the window, with the allowance and its condition (R97, R142). -/
def emptyWindow (r : Tenant) : Tenant :=
  { r with
    ring := [], bucket := Bucket.initial, lastDemand := none, peak := none, coveredFeed := none, allowanceTail := 0,
    allowanceHeld := false }

/-- RESET-TENANT accepted (R97, R160). -/
def resetTenant (t : Nat) (s : State) : State :=
  let s := onTenant t (fun r => emptyWindow (closeMachines .reset (reopen r))) (resetSlot t s)
  let s := stageToIdle t s
  s.setEsc t { s.esc t with failed := [] }

/-- TL takes RESET-TENANT (R97). -/
def ownResetTenant (t : Nat) (s : State) : State × Answer :=
  if validTenant t = false then (s, .plain .invalidParameter)
  else if s.locked t then (s, .plain .locked)
  else if (s.tenant t).state = .vacant then (s, .plain .incorrectState)
  else (resetTenant t s, .done [])

end Sys2Proof.Machine
end

