-- ==== Sys2Proof/Machine/Close.lean ====
section
/-! DEFINITION. The close of the collecting period (4.5) with the settles that follow its fourth step (R78, R99, R161), and the three rows of the table that name what happens at a settle (R150, R153, R157). -/

namespace Sys2Proof.Machine

/-- Steps 1 to 4 of the close of period `c`, with the Interval Totals handed to TL (R78). -/
def closeSteps (c : Period) (f : FeedStates) (s : State) : State × List IntervalTotal :=
  let s := sweep c s
  let totals := intervalTotals c f s
  (endReleases (zeroCollecting (totals.foldl handTotal s)), totals)

/-- Steps 1 to 4 of the close of period `c`, and then the settles in ascending tenant number (R78, log entry 17). -/
def runClose (c : Period) (f : FeedStates) (s : State) : State := (closeSteps c f s).2.foldl settle (closeSteps c f s).1

/-- The close that can run: the oldest one, once MLC has ended the round of its expiry and FM has judged that round's tally, with its period and the
feed states FM handed for it (R78, R137). -/
def State.judgedClose (s : State) : Option (Period × FeedStates) := s.oae.closes.head?.bind fun w => w.feeds.map fun f => (w.period, f)

/-- The oldest close is no longer one that waits. -/
def takeClose (s : State) : State := s.onOae fun o => { o with closes := o.closes.tail }

/-- OAE closes the oldest period that waits, once the round has ended and FM has judged its tally (R78). -/
def closePeriod (s : State) : State :=
  match s.judgedClose with
  | none => s
  | some (c, f) => runClose c f (takeClose s)

/-- CLOSE (R78). -/
def execClose (s : State) : Result := .next (closePeriod s)

/-! ### ARM_EXPIRY, SHED_FAILED, RESTORE_LIMIT (R147, R150, R153, R157, log entry 8) -/

/-- A settle can be taken: the unit is RUNNING and a close is in progress whose round has ended and been judged (R78, R92). In CONFIG and HALTED, and until the
first close after a START, a countdown, an age and a restore stand still (R144). -/
def State.settling (s : State) : Bool := decide (s.ct.runState = .running ∧ s.judgedClose ≠ none)

/-- What the settle of a tenant in the next close comes to where ES begins its stage step, the tenants before it settled; none where that close
settles no such tenant. -/
def closeReaches (t : Nat) (s : State) : Option StageEntry :=
  match s.judgedClose with
  | none => none
  | some (c, f) =>
    let p := closeSteps c f (takeClose s)
    (p.2.find? fun x => decide (x.tenant = t)).bind fun x =>
      stageEntry ((p.2.takeWhile fun y => decide (y.tenant ≠ t)).foldl settle p.1) x

/-- The next close can be taken, and the stage step of a tenant in it is of a kind. -/
def closeHolds (t : Nat) (kind : StageEntry → Bool) (s : State) : Bool :=
  s.settling && ((closeReaches t s).map kind).getD false

/-- A row that names what happens at the stage step of a tenant is the close in which it happens: one settle has one stage step, at its step 6
(R147). -/
def closeWith (t : Nat) (kind : StageEntry → Bool) (s : State) : State := if closeHolds t kind s then closePeriod s else s

/-- ARM_EXPIRY: the close in which TL hands ES these values for the tenant and its countdown reaches 0 (R150). -/
def execArmExpiry (t : Nat) (handed : List HandedFeed) (s : State) : Result :=
  .next (closeWith t (fun e => decide (e.handed = handed) && armExpires t e.state) s)

/-- SHED_FAILED: the close in which TL hands ES these values for the tenant and its awaiting outlet fails (R153). -/
def execShedFailed (t : Nat) (handed : List HandedFeed) (s : State) : Result :=
  .next (closeWith t (fun e => decide (e.handed = handed) && shedFails t handed e.state) s)

/-- RESTORE_LIMIT: the close in which the restore of the tenant unmarks its awaiting outlet at the limit (R157). -/
def execRestoreLimit (t : Nat) (s : State) : Result := .next (closeWith t (fun e => restoreLimits t e.state) s)

end Sys2Proof.Machine
end

