-- ==== Sys2Proof/Machine/FeedMonitor.lean ====
section
/-! DEFINITION. The Feed Monitor: its judgment of a round's feed tally (7.1). -/

namespace Sys2Proof.Machine

/-- What a tally says of a feed (R132). -/
inductive Verdict where
  | majorityAbsent
  | majorityPresent
  | neither
  deriving DecidableEq, Repr

/-- The verdict of a tally of `frames` frames, `absent` of them reporting the feed absent; with no frame neither holds (R132). -/
def feedVerdict (frames absent : Nat) : Verdict :=
  if frames = 0 then .neither
  else if frames < 2 * absent then .majorityAbsent
  else if frames < 2 * (frames - absent) then .majorityPresent
  else .neither

/-- One feed moved by a verdict; `r` is the feed restore count (R133, R134, R135). -/
def judgeFeed (r : Nat) (w : FeedWatch) : Verdict → FeedWatch
  | .majorityAbsent =>
      match w.state with
      | .present => { state := .lost, count := 0 }
      | .lost => w
      | .returning => { state := .lost, count := 0 }
  | .majorityPresent =>
      match w.state with
      | .present => w
      | .lost => { state := .returning, count := 0 }
      | .returning => if r ≤ w.count + 1 then { state := .present, count := 0 } else { w with count := w.count + 1 }
  | .neither => w

/-- The causes a feed's move latches: FEED_LOST from PRESENT to LOST, FEED_RESTORED from RETURNING to PRESENT (R133, R135). -/
def feedCauses (before after : FeedWatch) (s : State) : State :=
  if before.state = .present ∧ after.state = .lost then latchUnit .feedLost s
  else if before.state = .returning ∧ after.state = .present then latchUnit .feedRestored s
  else s

/-- FM judges a tally, feed A and feed B (R131). -/
def judgeTally (t : FeedTally) (s : State) : State :=
  let a := judgeFeed s.ct.config.restoreCount s.fm.a (feedVerdict t.frames t.absentA)
  let b := judgeFeed s.ct.config.restoreCount s.fm.b (feedVerdict t.frames t.absentB)
  feedCauses s.fm.b b (feedCauses s.fm.a a (s.onFm fun _ => { a := a, b := b }))

/-! ### What FM hands OAE (R78, R131, R137) -/

/-- The two feed states of FM. -/
def FeedMonitor.states (f : FeedMonitor) : FeedStates := { a := f.a.state, b := f.b.state }

/-- A close that waited for a judgment carries it; one that has its own keeps it. -/
def WaitingClose.judged (f : FeedStates) (w : WaitingClose) : WaitingClose := { w with feeds := some (w.feeds.getD f) }

/-- FM hands its two feed states to OAE for the closes that waited for its judgment (R137). -/
def handFeeds (s : State) : State := s.onOae fun o => { o with closes := o.closes.map (WaitingClose.judged s.fm.states) }

end Sys2Proof.Machine
end

