-- ==== Sys2Proof/Machine/MeterLink.lean ====
section
/-! DEFINITION. The Meter Link Controller: the poll round, the check of reply frames, the Head Table, FORGET-HEAD (chapter 2). -/

namespace Sys2Proof.Machine

/-! ### The pins (R14, R202, R206) -/

/-- ML_DIR `bit` bit times after the last downstream frame began: high toward the heads through the frame, low after it and so in every reply
wait, which opens at the frame's end; low at every bit time where no frame has begun since a reset (log entry 7). -/
def State.mlDir (s : State) (bit : Nat) : Bool := decide (bit < frameBits s.mlc.lastSent)

/-- The level that MLC drives on the meter link `bit` bit times after the last downstream frame began; 1 once the line is released. -/
def State.mlLevel (s : State) (bit : Nat) : Bool := levelAt s.mlc.lastSent bit

/-! ### Downstream frames -/

/-- A new round: SYNC is sent, every address is not yet reached, the tally is empty, the walks begin (R17, R18, R33). -/
def beginRound (n : Period) (m : MeterLink) : MeterLink :=
  advancePhase { m with
    phase := .switch, walkPos := 0, pollPos := 1, repollDue := none, wait := none, marks := [], tally := FeedTally.initial,
    syncDue := none, lastSent := syncFrame n }

/-- The SYNC that CT has signalled is sent once the round it ends has ended (R17, R22). -/
def sendSync (s : State) : State :=
  match s.mlc.syncDue with
  | some n => if s.mlc.roundEndDue then s else s.onMlc (beginRound n)
  | none => s

/-- SYNC (R17). -/
def execSync (s : State) : Result := .next (sendSync s)

/-- The switch walk sends the next entry whose head is PRESENT and the entry leaves the queue (R19). -/
def sendSwitch (m : MeterLink) : MeterLink :=
  match sendableFrom m.heads m.switchQueue m.walkPos with
  | none => m
  | some j =>
    match m.switchQueue[j]? with
    | none => m
    | some e => advancePhase { m with switchQueue := m.switchQueue.eraseIdx j, walkPos := j, lastSent := switchFrame e }

/-- The round may transmit: the link is free and no cadence expiry waits to end the round (R14, R22). -/
def MeterLink.mayTransmit (m : MeterLink) : Bool := decide (m.wait = none ∧ m.roundEndDue = false)

/-- SWITCH (R19). -/
def execSwitch (s : State) : Result :=
  .next (if s.mlc.phase = .switch ∧ s.mlc.mayTransmit then s.onMlc sendSwitch else s)

/-- A POLL frame to an address, and the reply wait it opens (R20, R21). -/
def sendPoll (kind : PollKind) (addr : Nat) (m : MeterLink) : MeterLink :=
  { m with wait := some { addr := addr, kind := kind, ticks := 0 }, lastSent := pollFrame addr }

/-- The poll phase polls the re-poll that is due, or else the next due address (R20). -/
def pollNext (m : MeterLink) : MeterLink :=
  match m.repollDue with
  | some a => { sendPoll .repoll a m with repollDue := none }
  | none =>
    match nextPoll m with
    | some a => { sendPoll .first a m with pollPos := a }
    | none => m

/-- POLL (R20). -/
def execPoll (s : State) : Result :=
  .next (if s.mlc.phase = .poll ∧ s.mlc.mayTransmit then s.onMlc pollNext else s)

/-- The probe phase probes the next ABSENT address, which the probe pointer takes (R21). -/
def probeNext (m : MeterLink) : MeterLink :=
  match nextProbe m with
  | some a => { sendPoll .probe a m with probePointer := a }
  | none => m

/-- PROBE (R21). -/
def execProbe (s : State) : Result :=
  .next (if s.mlc.phase = .probe ∧ s.mlc.mayTransmit then s.onMlc probeNext else s)

/-! ### The end of a poll -/

/-- The exchange with an address ends: the poll walk moves on, or the probe phase is over (R20, R21). -/
def endExchange (kind : PollKind) (addr : Nat) (m : MeterLink) : MeterLink :=
  match kind with
  | .probe => { m with wait := none, phase := .complete }
  | _ => advancePhase { m with wait := none, repollDue := none, pollPos := addr + 1 }

/-- An entry after a miss, with the lost limit in force (R29). -/
def missEntry (lostLimit : Nat) (e : HeadEntry) : HeadEntry :=
  let silence := min Config.byteMax (e.silence + 1)
  { e with
    silence := silence
    state := if lostLimit ≤ silence ∧ e.state ≠ .lost then .lost else if e.state = .present then .silent else e.state }

/-- A miss of an address: its silence count, its state, HEAD_LOST when it becomes LOST (R29). -/
def missHead (s : State) (addr : Nat) : State :=
  let e := s.head addr
  let e' := missEntry s.ct.config.lostLimit e
  let s' := (s.setHead addr e').setMark addr .missed
  if e'.state = .lost ∧ e.state ≠ .lost then latchUnit .headLost s' else s'

/-- A poll that ends not answered: a miss, but not at a probe (R21, R24). -/
def notAnswered (w : ReplyWait) (s : State) : State :=
  match w.kind with
  | .probe => s.onMlc (endExchange .probe w.addr)
  | k => (missHead s w.addr).onMlc (endExchange k w.addr)

/-- REPLY_WAIT_CLOSE (R20). -/
def execReplyWaitClose (s : State) : Result :=
  .next (match s.mlc.wait with
    | some w => if Config.replyWaitTicks ≤ w.ticks then notAnswered w s else s
    | none => s)

/-! ### Reply frames -/

/-- A frame error counted against the polled entry (R24). -/
def countError (addr : Nat) (s : State) : State :=
  s.setHead addr { s.head addr with errorCount := min Config.byteMax ((s.head addr).errorCount + 1) }

/-- A reply that fails the CRC check: a first poll is re-polled, any other ends not answered (R20, R21, R24). -/
def failCheck (w : ReplyWait) (s : State) : State :=
  match w.kind with
  | .first => (countError w.addr s).onMlc fun m => { m with wait := none, repollDue := some w.addr }
  | _ => notAnswered w (countError w.addr s)

/-- A repeat: an answer that carries no reading (R25, R30). -/
def takeRepeat (w : ReplyWait) (s : State) : State :=
  ((s.setHead w.addr { s.head w.addr with silence := 0, state := .present }).setMark w.addr .answered).onMlc
    (endExchange w.kind w.addr)

/-- The entry of an address after an accepted frame (R26, R30, R31). -/
def acceptedEntry (f : ReplyFrame) (e : HeadEntry) : HeadEntry :=
  { e with state := .present, silence := 0, lastSeq := some f.seq, lastStamp := some f.stamp, lastFlags := some f.flags }

/-- The tally with one more frame (R33). -/
def FeedTally.add (t : FeedTally) (f : FeedFlags) : FeedTally :=
  { frames := t.frames + 1, absentA := t.absentA + (if f.a then 0 else 1), absentB := t.absentB + (if f.b then 0 else 1) }

/-- The records of an accepted frame, without those of an outlet index of 48 or more (R27). -/
def ReplyFrame.records (f : ReplyFrame) : List MeterRecord :=
  (parseRecords f.count f.body).filter fun r => decide (r.outlet < Config.outletsPerHead)

/-- An accepted frame: the entry, the tally, the delivery to OAE, the copy to TP (R26, R31). An address that answered, was forgotten and answers a
probe in the same round adds a second frame to the tally, where R33 both adds each accepted frame and bounds an address to one: the model's
choice (log entry 25). -/
def acceptFrame (w : ReplyWait) (f : ReplyFrame) (s : State) : State :=
  let s := (s.setHead w.addr (acceptedEntry f (s.head w.addr))).setMark w.addr .answered
  let s := if w.kind = .probe then latchUnit .headJoined s else s
  let s := s.onMlc fun m => { m with tally := m.tally.add f.flags }
  let s := s.onOae fun o =>
    { o with deliveries := o.deliveries ++ [{ head := w.addr, stamp := f.stamp, records := f.records }] }
  let s := s.onTp fun p =>
    { p with copies := p.copies ++ [{ head := w.addr, stamp := f.stamp, flags := f.flags, records := f.records }] }
  s.onMlc (endExchange w.kind w.addr)

/-- A reception that passes check 1: no framing error, a length a valid frame can have, the CRC-8 (R15, R16). -/
def replyCheck (bytes : List Byte) (framingError : Bool) : Bool :=
  !framingError && decide (Config.replyFrameMin ≤ bytes.length ∧ bytes.length ≤ Config.replyFrameMax) && crc8Ok bytes

/-- The length a record count gives is the length received, and the count is 0 to 48 (R24 check 4, R203). -/
def lengthCheck (f : ReplyFrame) (bytes : List Byte) : Bool :=
  decide (f.count ≤ Config.outletsPerHead ∧ bytes.length = Config.replyFrameMin + 6 * f.count)

/-- The four checks of a reply frame in their order (R24). -/
def checkReply (w : ReplyWait) (bytes : List Byte) (framingError : Bool) (s : State) : State :=
  if replyCheck bytes framingError then
    match parseReply bytes with
    | none => failCheck w s
    | some f =>
      if f.source ≠ w.addr then notAnswered w (latchUnit .linkFault s)
      else if (s.head w.addr).lastSeq = some f.seq then takeRepeat w s
      else if lengthCheck f bytes then acceptFrame w f s
      else notAnswered w (countError w.addr s)
  else failCheck w s

/-- A frame on the meter link. Without an open reply wait it is stray (R14); after a cadence expiry it is the reception that ran at the
expiry, discarded without checks (R22); otherwise it is checked (R24). -/
def receiveReply (chars : List Character) (s : State) : State :=
  match s.mlc.wait with
  | none => latchUnit .linkFault s
  | some w => if s.mlc.roundEndDue then s else checkReply w (bytesOf chars) (anyFramingError chars) s

/-- REPLY_FRAME (R24). -/
def execReplyFrame (first : Character) (rest : List Character) (s : State) : Result := .next (receiveReply (first :: rest) s)

/-- STRAY_FRAME (R14). -/
def execStrayFrame (s : State) : Result := .next (if s.mlc.wait = none then latchUnit .linkFault s else s)

/-! ### The end of a round -/

/-- The addresses the ending round counts as missed: being polled, or not reached and due (R22). -/
def missedAtEnd (m : MeterLink) : List Nat :=
  if m.phase = .switch ∨ m.phase = .poll then
    (List.range' 1 Config.heads).filter fun a =>
      decide ((tableGet HeadEntry.initial m.heads a).state ≠ .absent ∧ tableGet .notReached m.marks a = .notReached)
  else []

/-- No round: nothing in progress, an empty tally. -/
def closeRound (m : MeterLink) : MeterLink :=
  { m with phase := .idle, repollDue := none, wait := none, tally := FeedTally.initial, roundEndDue := false }

/-- MLC ends the round, and FM judges its tally and hands OAE the feed states for the close that waits (R22, R131, R137). -/
def endRound (s : State) : State :=
  handFeeds (judgeTally s.mlc.tally (((missedAtEnd s.mlc).foldl missHead s).onMlc closeRound))

/-- ROUND_END (R22). -/
def execRoundEnd (s : State) : Result := .next (if s.mlc.roundEndDue then endRound s else s)

/-- A round ended by HALT: no miss, no tally handed, nothing sent until the next START (R23). -/
def abandonRound (m : MeterLink) : MeterLink := { closeRound m with syncDue := none }

/-! ### FORGET-HEAD -/

/-- A poll or a probe of the forgotten address ends with no miss, and the walk moves on (R32). -/
def forgetExchange (addr : Nat) (m : MeterLink) : MeterLink :=
  match m.wait with
  | some w => if w.addr = addr then endExchange w.kind addr m else advancePhase m
  | none => if m.repollDue = some addr then endExchange .repoll addr m else advancePhase m

/-- FORGET-HEAD accepted: a delivery of the head that OAE has begun is finished first; then the entry, its deliveries and copies, its outlets'
baselines, its Switch Queue entries (R32). -/
def forgetHead (addr : Nat) (s : State) : State :=
  let s := if s.oae.taking.map Taking.head = some addr then endDelivery s else s
  let s := s.setHead addr HeadEntry.initial
  let s := s.onOae fun o => { o with deliveries := o.deliveries.filter fun d => d.head != addr }
  let s := s.onTp fun p => { p with copies := p.copies.filter fun c => c.head != addr }
  let s := markNoBaseline (fun k => decide ((addrOfKey k).head = addr)) s
  let s := s.onMlc (removeEntries fun e => decide (e.addr.head = addr))
  s.onMlc (forgetExchange addr)

/-- MLC takes FORGET-HEAD (R32). -/
def ownForgetHead (addr : Nat) (s : State) : State × Answer :=
  if validHead addr then (forgetHead addr s, Answer.done (headBytes (s.head addr))) else (s, Answer.plain .invalidParameter)

end Sys2Proof.Machine
end

