-- ==== Sys2Proof/Machine/Cadence.lean ====
section
/-! DEFINITION. The Cadence Timer: the tick, the cadence expiry, CONFIGURE-UNIT, START and HALT (chapter 1). -/

namespace Sys2Proof.Machine

/-! ### The tick (R1, R7, R20, R186, R197) -/

/-- Ticks in one period (R5, R7). -/
def UnitConfig.periodTicks (c : UnitConfig) : Nat := c.il * Config.ticksPerSecond

/-- CT at a tick: the countdown is lowered in RUNNING, and from 1 it is loaded again and an expiry is due (R7, log entry 5). -/
def CadenceTimer.tick (ct : CadenceTimer) : CadenceTimer :=
  match ct.runState, ct.countdown with
  | .running, some c =>
    if c ≤ 1 then { ct with prescaler := 0, countdown := some ct.config.periodTicks, expiriesDue := ct.expiriesDue + 1 }
    else { ct with prescaler := 0, countdown := some (c - 1) }
  | _, _ => { ct with prescaler := 0 }

/-- MLC at a tick: an open reply wait has seen one more (R20). -/
def MeterLink.tick (m : MeterLink) : MeterLink :=
  { m with wait := m.wait.map fun w => { w with ticks := min Config.replyWaitTicks (w.ticks + 1) } }

/-- The trunk is idle: the unit sends nothing and receives nothing. -/
def TrunkPort.lineIdle (p : TrunkPort) : Bool := decide (p.sending = .nothing ∧ p.rx = none)

/-- TP at a tick: the reply window and the idle gap have seen one more (R186, R197). -/
def TrunkPort.tick (p : TrunkPort) : TrunkPort :=
  { p with
    window := p.window.map fun w => { w with ticks := min Config.replyWindowTicks (w.ticks + 1) }
    idleTicks := if p.lineIdle then min Config.idleGapTicks (p.idleTicks + 1) else p.idleTicks }

/-- TICK (R1). -/
def execTick (s : State) : Result :=
  .next { s with ct := s.ct.tick, mlc := s.mlc.tick, tp := s.tp.tick }

/-! ### The cadence expiry (R8) -/

/-- CT at an expiry: the flag is set and N advances (R4, R8, R9). -/
def CadenceTimer.expire (ct : CadenceTimer) : CadenceTimer :=
  { ct with expiriesDue := ct.expiriesDue - 1, collectingOpen := true, n := ct.n + 1 }

/-- The expiry whole: the close signalled to OAE, which first ends the delivery it is taking (R78), N, and the end of the round and the SYNC signalled to MLC (R8). -/
def cadenceExpiry (s : State) : State :=
  let s := if s.ct.collectingOpen then endDelivery s else s
  let closes := if s.ct.collectingOpen then s.oae.closes ++ [{ period := s.ct.n - 1, feeds := none }] else s.oae.closes
  let s := s.onOae fun o => { o with closes := closes }
  let s := s.onCt CadenceTimer.expire
  s.onMlc fun m => { m with syncDue := some s.ct.n, roundEndDue := true }

/-- CADENCE_EXPIRY (R8). -/
def execCadenceExpiry (s : State) : Result :=
  .next (if s.ct.runState = .running ∧ 0 < s.ct.expiriesDue then cadenceExpiry s else s)

/-! ### CONFIGURE-UNIT (R2) -/

/-- Every field of the order lies in its range (1.2, R2, R204). -/
def configInRange (f : UnitFields) : Bool :=
  decide (1 ≤ f.il ∧ f.il ≤ 10 ∧ 90 ≤ f.voltA ∧ f.voltA ≤ 500 ∧ 90 ≤ f.voltB ∧ f.voltB ≤ 500)
    && decide (f.staleLimit ≤ 15 ∧ 1 ≤ f.lostLimit ∧ f.lostLimit ≤ 60 ∧ 1 ≤ f.restoreCount ∧ f.restoreCount ≤ 60)
    && decide (f.threshold ≤ 65535 ∧ f.forwardMode ≤ 1)

/-- The record an order in range carries. -/
def configOf (f : UnitFields) : UnitConfig :=
  { il := f.il, voltA := f.voltA, voltB := f.voltB, staleLimit := f.staleLimit, lostLimit := f.lostLimit,
    restoreCount := f.restoreCount, threshold := f.threshold, forwardAll := decide (f.forwardMode = 1) }

/-- CT takes CONFIGURE-UNIT (R2). -/
def ownConfigureUnit (f : UnitFields) (s : State) : State × Answer :=
  if configInRange f = false then (s, .plain .invalidParameter)
  else if s.ct.runState = .running then (s, .plain .incorrectState)
  else (s.onCt fun ct => { ct with config := configOf f, configured := true }, .done [])

/-! ### START (R3, R5, R6) -/

/-- CT runs from period `n`, and MLC is signalled to send its SYNC (R5, R6). -/
def startFrom (n : Period) (s : State) : State :=
  let s := s.onCt fun ct =>
    { ct with n := n, collectingOpen := false, countdown := some ct.config.periodTicks, runState := .running, expiriesDue := 0 }
  s.onMlc fun m => { m with syncDue := some n }

/-- CT takes START (R3); from HALTED every LIVE or STALE outlet becomes NO_BASELINE (R6). -/
def ownStart (s : State) : State × Answer :=
  if s.ct.runState = .running ∨ s.ct.configured = false then (s, .plain .incorrectState)
  else if s.ct.runState = .config then (startFrom 0 s, .done (be 2 0))
  else (markNoBaseline (fun _ => true) (startFrom (s.ct.n + 1) s), .done (be 2 (s.ct.n + 1).toNat))

/-! ### HALT (R10, R11, R23, R81) -/

/-- The round end and the closes that an expiry before the HALT has signalled run to their end (R11, R81, log entry 11). -/
def finishExpiry (s : State) : State :=
  let s := if s.mlc.roundEndDue then endRound s else s
  s.oae.closes.foldl (fun st _ => closePeriod st) s

/-- CT halted (R10). -/
def CadenceTimer.halt (ct : CadenceTimer) : CadenceTimer :=
  { ct with countdown := none, collectingOpen := false, runState := .halted, expiriesDue := 0 }

/-- HALT acted on in RUNNING; a delivery that OAE has begun is taken to its end before the period is abandoned (R10, R23, R81, log entry 24). Energy that a
delivery of the abandoned period brought to the unattributed accumulator stays there: R59, R71 and R81 leave that accumulator as it stands, where
the last sentence of R81 has none of it reach the accumulator; the model's choice between the two (log entry 31). -/
def haltUnit (s : State) : State := abandonPeriod (((endDelivery (finishExpiry s)).onCt CadenceTimer.halt).onMlc abandonRound)

/-- CT takes HALT (R10); the result is the held N. -/
def ownHalt (s : State) : State × Answer :=
  if s.ct.runState = .running then (haltUnit s, .done (be 2 s.ct.n.toNat)) else (s, .plain .incorrectState)

end Sys2Proof.Machine
end

