-- ==== Sys2Proof/Machine/Resets.lean ====
section
/-! DEFINITION. What the four resets do, the owners of RESET-UNIT and of the two broadcast orders (5.5, R188, R193 to R195, R206). -/

namespace Sys2Proof.Machine

/-! ### Power-on and pin reset (R206) -/

/-- Every block at its power-on values, the straps sampled, the reset cause set; the commands that wait stay in the queue. -/
def hardReset (cause : ResetCause) (uaddr : BitVec 4) (service : Bool) (s : State) : State :=
  { State.reset with
    tp := { TrunkPort.initial with unitAddr := uaddr, service := service, resetCause := cause }
    pending := s.pending }

/-- POWER_ON (R206). -/
def execPowerOn (uaddr : BitVec 4) (service : Bool) (s : State) : Result := .next (hardReset .powerOn uaddr service s)

/-- PIN_RESET (R206). -/
def execPinReset (uaddr : BitVec 4) (service : Bool) (s : State) : Result := .next (hardReset .resetPin uaddr service s)

/-! ### FULL (R194) -/

/-- TP at a FULL reset: the lock map, the straps, the idle time of the line and the last frame sent stay (R194, log entries 7, 20). A frame in hand
that is being transmitted, which only a broadcast order that waited for an owner's answer can meet, is cut off with TK_DIR low: R194 has no
frame in transmission then and R206 names no such end of TK_DIR, so this is the model's choice (log entry 34). -/
def TrunkPort.fullReset (p : TrunkPort) : TrunkPort :=
  { TrunkPort.initial with
    idleTicks := p.idleTicks, lockMap := p.lockMap, unitAddr := p.unitAddr, service := p.service,
    resetCause := .orderFull, lastSent := p.lastSent }

/-- The FULL reset of every block (R12, R28, R36, R39, R40, R82, R104, R130, R144, R179, R194). A delivery that OAE has begun is discarded with those
that wait, where R61 speaks of these alone: the model's choice (log entry 32). -/
def fullReset (s : State) : State :=
  { State.reset with
    ct := { CadenceTimer.initial with prescaler := s.ct.prescaler }
    tp := s.tp.fullReset
    pending := s.pending }

/-! ### ACCOUNTS (R195) -/

/-- A Head Table entry at an ACCOUNTS reset (R28). -/
def HeadEntry.accounts (e : HeadEntry) : HeadEntry := { e with errorCount := 0 }

/-- MLC at an ACCOUNTS reset: the round goes on, and a switch phase, whose queue is empty now, ends (R19, R23, R28, R36, log entry 14). -/
def MeterLink.accounts (m : MeterLink) : MeterLink :=
  leaveSwitchPhase { m with
    heads := tableMap HeadEntry.initial (fun _ e => e.accounts) m.heads
    switchQueue := [], walkPos := 0 }

/-- An outlet record at an ACCOUNTS reset (R40). -/
def Outlet.accounts (o : Outlet) : Outlet := { o with discontinuities := 0, shedMark := false, completionOwed := none }

/-- A tenant record at an ACCOUNTS reset (R104, R142). -/
def Tenant.accounts (r : Tenant) : Tenant :=
  { Tenant.initial with
    state := r.state, stateBeforeClose := r.stateBeforeClose, contract := r.contract, pendingLimits := r.pendingLimits }

/-- OAE at an ACCOUNTS reset (R82). A delivery that OAE has begun stays begun, and its remaining records are taken after the reset, where the manual
speaks of waiting deliveries alone: the model's choice (log entry 32). -/
def AttributionEngine.accountsReset (o : AttributionEngine) : AttributionEngine :=
  { o with
    unattributed := 0
    accounts := tableMap Account.initial (fun _ a => { a with lastIncomplete := false }) o.accounts }

/-- NU at an ACCOUNTS reset (R179). -/
def NoticeUnit.accounts (n : NoticeUnit) : NoticeUnit :=
  { n with
    tenants := tableMap CauseSet.initial (fun _ c => { c with latched := 0, unreported := 0 }) n.tenants
    queue := requeue 0 n.unit [] }

/-- A frame in hand that an ACCOUNTS reset keeps: a NOTICE alone (R195). -/
def keptInHand : Option UpFrame → Option UpFrame
  | some (.notice n) => some (.notice n)
  | _ => none

/-- TP at an ACCOUNTS reset (R195). A frame in hand that is discarded while it is being transmitted, which only a broadcast order that waited for
an owner's answer can meet, is cut off with TK_DIR low, and a NOTICE goes on: R194 has no frame in transmission then and R195 is silent, so
both are the model's choice (log entry 34). -/
def TrunkPort.accounts (p : TrunkPort) : TrunkPort :=
  { p with
    completions := [], summaries := [], forwards := [], dropCount := 0, inHand := keptInHand p.inHand
    sending := if p.sending = .inHand ∧ keptInHand p.inHand = none then .nothing else p.sending
    resetCause := .orderAccounts }

/-- The ACCOUNTS reset of every block (R12, R28, R36, R40, R82, R104, R130, R144, R179, R195). FM's states become PRESENT,
and a close that FM has judged keeps the states it was handed: it runs to its end with them (R82, R130, R131, log entry 33). -/
def accountsReset (s : State) : State :=
  { s with
    mlc := s.mlc.accounts
    ot := { s.ot with outlets := tableMap Outlet.initial (fun _ o => o.accounts) s.ot.outlets }
    oae := s.oae.accountsReset
    fm := FeedMonitor.initial
    tl := { s.tl with tenants := tableMap Tenant.initial (fun _ r => r.accounts) s.tl.tenants }
    es := Sequencer.initial
    nu := s.nu.accounts
    tp := s.tp.accounts }

/-- The reset of a kind. -/
def resetUnit (k : ResetKind) (s : State) : State :=
  match k with
  | .full => fullReset s
  | .accounts => accountsReset s

/-! ### RESET-UNIT (R193) -/

/-- The option of RESET-UNIT: 1 FULL, 2 ACCOUNTS (11.4). -/
def resetOption (n : Nat) : Option ResetKind := if n = 1 then some .full else if n = 2 then some .accounts else none

/-- A FULL reset is blocked by a lock while the service flag is clear (R193). -/
def State.resetLocked (s : State) (k : ResetKind) : Bool :=
  decide (k = .full ∧ s.tp.lockMap ≠ 0#16 ∧ s.tp.service = false)

/-- TP takes RESET-UNIT (R193). -/
def ownResetUnit (option : Nat) (s : State) : State × Answer :=
  match resetOption option with
  | none => (s, .plain .invalidParameter)
  | some k => if s.resetLocked k then (s, .plain .locked) else (s.onTp fun p => { p with reset := some k }, .done [])

/-! ### Broadcast orders (R188, log entry 9) -/

/-- A broadcast HALT as CT acts on it: as accepted in RUNNING, as refused otherwise (R10, R188). -/
def actHalt (s : State) : State := if s.ct.runState = .running then haltUnit s else s

/-- A broadcast RESET-UNIT that would be accepted takes effect at once; any other is discarded (R188). -/
def actResetUnit (option : Nat) (s : State) : State :=
  match resetOption option with
  | none => s
  | some k => if s.resetLocked k then s else resetUnit k s

/-- A broadcast order handed to its owner (R188). -/
def handOver (s : State) (c : Instr) : State :=
  match c with
  | .broadcastHalt => actHalt s
  | .broadcastResetUnit option => actResetUnit option s
  | _ => s

/-- A unicast order is with its owner (R188). -/
def OrderPath.withOwner : OrderPath → Bool
  | .atOwner _ => true
  | _ => false

/-- A broadcast order at the end of its frame: it is handed over, or waits until the owner of a unicast order has answered (R188). -/
def arriveBroadcast (c : Instr) (s : State) : State :=
  if s.tp.path.withOwner then s.onTp fun p => { p with broadcasts := p.broadcasts ++ [c] } else handOver s c

end Sys2Proof.Machine
end

