-- ==== Sys2Proof/Machine/Trunk.lean ====
section
/-! DEFINITION. The Trunk Port: reception, the order path, replies, the transmit arbiter, the ends of transmissions and the resets they bring, and the owners of IDENTIFY, the lock map and the orders of the Notice Unit (chapters 9 and 10). -/

namespace Sys2Proof.Machine

/-! ### Reception (R180 to R184) -/

/-- A reply fills the slot for an order that TP itself refuses (R184). -/
def refuseOrder (tag : Byte) (code : Nat) (status : Status) (s : State) : State := fillSlot tag code (.plain status) s

/-- The Order Decoder takes an order that finds the path free (R184). -/
def decodeUnicast (tag : Byte) (payload : List Byte) (s : State) : State :=
  match payload with
  | [] => refuseOrder tag 0 .unknownOrder s
  | code :: params =>
    if code.toNat ∈ orderCodes then
      match decodeOrder tag code.toNat params with
      | some c => s.onTp fun p => { p with path := .atOwner c }
      | none => refuseOrder tag code.toNat .invalidParameter s
    else refuseOrder tag code.toNat .unknownOrder s

/-- A new ORDER closes the window in progress; a broadcast one opens none (R186). -/
def closeWindow (s : State) : State := s.onTp fun p => { p with window := none }

/-- A broadcast ORDER: HALT and RESET-UNIT of the right length go to their owners, any other is discarded (R186, R188). -/
def receiveBroadcast (payload : List Byte) (s : State) : State :=
  match payload with
  | [] => closeWindow s
  | code :: params =>
    match decodeBroadcast code.toNat params with
    | some c => arriveBroadcast c (closeWindow s)
    | none => closeWindow s

/-- The window an ORDER frame opens at every unit (R186); it is the order path's own when this unit takes the order. -/
def openWindow (addr : BitVec 4) (own : Bool) (s : State) : State :=
  s.onTp fun p => { p with window := some { addr := addr, ticks := 0, own := own } }

/-- A unicast ORDER: its window, and the order when it is for this unit and the path is free (R181 to R183). -/
def receiveUnicast (f : TrunkFrame) (s : State) : State :=
  let mine := decide (f.addr = s.tp.unitAddr ∧ s.tp.path = .free)
  let s := openWindow f.addr mine s
  if mine then decodeUnicast f.tag f.payload s else s

/-- A window closes at the end of an UP REPLY from its address (R186). -/
def closeWindowOf (addr : BitVec 4) (p : TrunkPort) : TrunkPort :=
  { p with window := p.window.filter fun w => decide (w.addr ≠ addr) }

/-- A frame that has passed the CRC check, by direction and kind (R181). -/
def routeFrame (f : TrunkFrame) (s : State) : State :=
  if f.up then (if f.kind = 2 then s.onTp (closeWindowOf f.addr) else s)
  else if f.kind ≠ 1 then s
  else if f.broadcast then receiveBroadcast f.payload s
  else receiveUnicast f s

/-- A trunk frame received to its length (R181). A frame that fails the check leaves an open reply window as it is (log entry 29). -/
def takeFrame (bytes : List Byte) (error : Bool) (s : State) : State :=
  if error || !crc16Ok bytes then latchUnit .trunkCheck s
  else
    match parseTrunk bytes with
    | some f => routeFrame f s
    | none => latchUnit .trunkCheck s

/-- One character received: it joins the reception in progress or begins one, and a frame is taken when its length is reached (R180). -/
def receiveCharacter (s : State) (c : Character) : State :=
  let chars := s.tp.rx.getD [] ++ [c]
  let rest : State := s.onTp fun p => { p with rx := none, idleTicks := 0 }
  match trunkLength (bytesOf chars) with
  | some n =>
    if n ≤ chars.length then takeFrame (bytesOf chars) (anyFramingError chars) rest
    else s.onTp fun p => { p with rx := some chars, idleTicks := 0 }
  | none => s.onTp fun p => { p with rx := some chars, idleTicks := 0 }

/-- The characters received on the trunk, one after the other, whatever frames they make up (R180, log entry 10). -/
def receiveTrunk (chars : List Character) (s : State) : State := chars.foldl receiveCharacter s

/-- TRUNK_FRAME (R181); nothing is received while the unit itself transmits (R180). -/
def execTrunkFrame (first : Character) (rest : List Character) (s : State) : Result :=
  .next (if s.tp.sending = .nothing then receiveTrunk (first :: rest) s else s)

/-- A frame heard whole at its end: its reception is over and the line is no longer idle. -/
def frameHeard (s : State) : State := s.onTp fun p => { p with rx := none, idleTicks := 0 }

/-- The frame of a broadcast order received whole; nothing is received while the unit itself transmits (R180, R186, R188). -/
def broadcastFrame (c : Instr) (s : State) : State :=
  if s.tp.sending = .nothing then arriveBroadcast c (closeWindow (frameHeard s)) else s

/-- BROADCAST_HALT (R188). -/
def execBroadcastHalt (s : State) : Result := .next (broadcastFrame .broadcastHalt s)

/-- BROADCAST_RESET_UNIT (R188). -/
def execBroadcastResetUnit (option : Nat) (s : State) : Result := .next (broadcastFrame (.broadcastResetUnit option) s)

/-- TRUNK_RECEPTION_IDLE_END (R180). -/
def execTrunkReceptionIdleEnd (s : State) : Result :=
  .next (if s.tp.sending = .nothing ∧ s.tp.rx ≠ none then
    latchUnit .trunkCheck (s.onTp fun p => { p with rx := none, idleTicks := 0 }) else s)

/-! ### The trunk pair (10.1, R197, R202, R206) -/

/-- The characters of the frame that TP is sending, one after the other without idle bits; none while it sends nothing (R202). -/
def State.tkCharacters (s : State) : List Character :=
  if s.tp.sending = .nothing then [] else sentCharacters s.tp.lastSent

/-- The level that TP puts on the trunk `bit` bit times after the frame it is sending has begun; 1 past its last bit, and at every bit time while TP
sends nothing, so from the bit at which R197 stops it on (R202, log entry 7). -/
def State.tkLevel (s : State) (bit : Nat) : Bool :=
  if s.tp.sending = .nothing then true else levelAt s.tp.lastSent bit

/-- The level on the trunk while the other stations put `others` on it: a 0 is dominant, a 1 is never held against it (10.1, R197, R202). -/
def State.tkLine (s : State) (others : Bool) (bit : Nat) : Bool := s.tkLevel bit && others

/-! ### Transmission (R186, R187, R196, R197, R205) -/

/-- REPLY_WINDOW_EXPIRY (R186). -/
def execReplyWindowExpiry (s : State) : Result :=
  .next (match s.tp.window with
    | some w => if Config.replyWindowTicks ≤ w.ticks then s.onTp fun p => { p with window := none } else s
    | none => s)

/-- The idle gap has passed and no reply window is open (R186, R197). -/
def TrunkPort.gapOver (p : TrunkPort) : Bool :=
  p.lineIdle && decide (Config.idleGapTicks ≤ p.idleTicks ∧ p.window = none)

/-- No window of another order is open (R186). -/
def TrunkPort.noOtherWindow (p : TrunkPort) : Bool := decide (p.window = none) || p.inOwnWindow

/-- The reply may start: as soon as the line is idle if the slot was filled in the window of its order, unless another order's window is open;
otherwise under the rules of other frames, after the idle gap and outside any window (R186, R187). -/
def TrunkPort.replyMayStart (p : TrunkPort) : Bool := p.lineIdle && (p.prompt && p.noOtherWindow) || p.gapOver

/-- REPLY_START (R187). -/
def execReplyStart (s : State) : Result :=
  .next (match s.tp.slot with
    | some r =>
      if s.tp.replyMayStart then
        s.onTp fun p => { p with sending := .reply, idleTicks := 0, lastSent := replyBytes p.unitAddr r }
      else s
    | none => s)

/-- The frame in hand begins to be transmitted. -/
def startInHand (f : UpFrame) (s : State) : State :=
  s.onTp fun p => { p with inHand := some f, sending := .inHand, idleTicks := 0, lastSent := f.bytes p.unitAddr }

/-- The first part of a copy to be sent: the whole of it up to 31 entries (R205). -/
def firstPart (f : ForwardFrame) : ForwardPart := if Config.forwardSplitFrom ≤ f.entries.length then .first else .whole

/-- The arbiter selects the first source that is not empty, and its frame starts (R196). -/
def selectFrame (s : State) : State :=
  match s.tp.completions with
  | c :: rest => startInHand (.completion c) (s.onTp fun p => { p with completions := rest })
  | [] =>
    match s.nu.queue with
    | source :: rest => startInHand (.notice (buildNotice source s)) (afterBuild source rest s)
    | [] =>
      match s.tp.summaries with
      | r :: rest => startInHand (.summary r) (s.onTp fun p => { p with summaries := rest })
      | [] =>
        match s.tp.forwards with
        | f :: rest => startInHand (.forward f (firstPart f)) (s.onTp fun p => { p with forwards := rest })
        | [] => s

/-- IDLE_GAP (R196, R197): with the Reply slot empty, the frame in hand starts, or the arbiter selects one. -/
def execIdleGap (s : State) : Result :=
  .next (if s.tp.slot = none ∧ s.tp.gapOver then
    match s.tp.inHand with
    | some f => startInHand f s
    | none => selectFrame s
  else s)

/-- What is in hand once its frame, or its first part, has been transmitted (R205). -/
def afterSent : Option UpFrame → Option UpFrame
  | some (.forward f .first) => some (.forward f .second)
  | _ => none

/-- TP after the transmission of a frame has ended (R186, R187, R196). -/
def TrunkPort.transmitEnd (p : TrunkPort) : TrunkPort :=
  match p.sending with
  | .nothing => p
  | .reply =>
    closeWindowOf p.unitAddr
      { p with sending := .nothing, idleTicks := 0, slot := none, prompt := false, path := .free, reset := none }
  | .inHand => { p with sending := .nothing, idleTicks := 0, inHand := afterSent p.inHand }

/-- A transmission ends; at the end of the reply to an accepted RESET-UNIT its reset takes effect (R187, R193). -/
def endTransmission (s : State) : State :=
  let t := s.onTp TrunkPort.transmitEnd
  match s.tp.sending, s.tp.reset with
  | .reply, some k => resetUnit k t
  | _, _ => t

/-- FRAME_TRANSMIT_END (R187). -/
def execFrameTransmitEnd (s : State) : Result := .next (endTransmission s)

/-- The reply to an accepted RESET-UNIT of a kind is being sent (R193). -/
def TrunkPort.answeringReset (p : TrunkPort) (k : ResetKind) : Bool := decide (p.sending = .reply ∧ p.reset = some k)

/-- FULL_RESET: the DONE reply to RESET-UNIT FULL ends, and the reset takes effect (R193, R194, log entry 5). -/
def execFullReset (s : State) : Result := .next (if s.tp.answeringReset .full then endTransmission s else s)

/-- ACCOUNTS_RESET: the DONE reply to RESET-UNIT ACCOUNTS ends, and the reset takes effect (R193, R195, log entry 5). -/
def execAccountsReset (s : State) : Result := .next (if s.tp.answeringReset .accounts then endTransmission s else s)

/-- TP after a read-back mismatch: the frame is kept; in the header the rest of the winning frame is received; a reply that has lost the
line is sent under the rules of other frames (R187, R197). -/
def TrunkPort.lose (inHeader : Bool) (p : TrunkPort) : TrunkPort :=
  if p.sending = .nothing then p
  else
    { p with
      sending := .nothing, idleTicks := 0
      rx := if inHeader then some [] else none
      prompt := if p.sending = .reply then false else p.prompt }

/-- ARBITRATION_LOST (R197). -/
def execArbitrationLost (inHeader : Bool) (s : State) : Result := .next (s.onTp (TrunkPort.lose inHeader))

/-! ### IDENTIFY and the lock map (R190 to R192) -/

/-- TP takes IDENTIFY (R190). -/
def ownIdentify (s : State) : State × Answer := (s, .done (identifyBytes s))

/-- The lock map with the groups of a mask set (R191). -/
def lockGroups (mask : BitVec 16) (s : State) : State := s.onTp fun p => { p with lockMap := p.lockMap ||| mask }

/-- The lock map with the groups of a mask clear (R192). -/
def unlockGroups (mask : BitVec 16) (s : State) : State := s.onTp fun p => { p with lockMap := p.lockMap &&& ~~~mask }

/-- TP takes LOCK-GROUPS (R191). -/
def ownLockGroups (mask : BitVec 16) (s : State) : State × Answer :=
  (lockGroups mask s, .done (be 2 (lockGroups mask s).tp.lockMap.toNat))

/-- TP takes UNLOCK-GROUPS (R192). -/
def ownUnlockGroups (mask : BitVec 16) (s : State) : State × Answer :=
  if s.tp.service then (unlockGroups mask s, .done (be 2 (unlockGroups mask s).tp.lockMap.toNat)) else (s, .plain .locked)

/-! ### ACK-NOTICE and SET-NOTICE-MASK (R172, R173, R175) -/

/-- The causes of a source's kind (R172). -/
def causesOf (source : Nat) : BitVec 16 := if source = 0 then allUnitCauses else allTenantCauses

/-- A set names only causes of a kind (R172, R175, R204). -/
def namesOnly (known causes : BitVec 16) : Bool := decide (causes &&& ~~~known = 0#16)

/-- An accepted ACK-NOTICE (R173). -/
def ackNotice (source : Nat) (causes : BitVec 16) (s : State) : State :=
  if source = 0 then ackUnit causes s else ackTenant source causes s

/-- NU takes ACK-NOTICE (R172, R173). -/
def ownAckNotice (source : Nat) (causes : BitVec 16) (s : State) : State × Answer :=
  if 127 < source ∨ namesOnly (causesOf source) causes = false then (s, .plain .invalidParameter)
  else if source ≠ 0 ∧ (s.tenant source).state = .vacant then (s, .plain .incorrectState)
  else (ackNotice source causes s, .done (be 2 ((ackNotice source causes s).sourceSet source).latched.toNat))

/-- NU takes SET-NOTICE-MASK (R175). -/
def ownSetNoticeMask (mask : BitVec 16) (s : State) : State × Answer :=
  if namesOnly allUnitCauses mask then (setUnitMask mask s, .done (be 2 s.nu.unit.mask.toNat)) else (s, .plain .invalidParameter)

end Sys2Proof.Machine
end

