-- ==== Sys2Proof/Machine/Orders.lean ====
section
/-! DEFINITION. The 21 unicast orders: how an order command meets the order path, its owner and the broadcast orders that wait (R182 to R188, log entries 4, 9). -/

namespace Sys2Proof.Machine

/-! ### The order path -/

/-- The owner takes the order and answers it; the broadcast orders that waited for the answer are then handed over in the order they arrived
(R184, R188). -/
def answerOrder (tag : Byte) (code : Nat) (owner : State → State × Answer) (s : State) : State :=
  let r := owner (s.onTp fun p => { p with broadcasts := [] })
  s.tp.broadcasts.foldl handOver (fillSlot tag code r.2 r.1)

/-- An ORDER frame for this unit has just been received: the line is no longer idle and a reply window is open for the unit's address, the
order path's own when the path is free (R183, R186). -/
def orderFrameHeard (s : State) : State := openWindow s.tp.unitAddr (decide (s.tp.path = .free)) (frameHeard s)

/-- A unicast order command. The owner takes the order when the order path holds it; with the path free the command stands for the
order's frame too, which takes the path; with the path busy the frame is discarded (R183); while TP transmits, nothing is received
(R180). -/
def takeOrder (c : Instr) (tag : Byte) (code : Nat) (owner : State → State × Answer) (s : State) : State :=
  if s.tp.path = .atOwner c then answerOrder tag code owner s
  else if s.tp.sending ≠ .nothing then s
  else if s.tp.path = .free then
    answerOrder tag code owner ((orderFrameHeard s).onTp fun p => { p with path := .atOwner c })
  else orderFrameHeard s

/-! ### The orders -/

/-- FORGET_HEAD (R32). -/
def execForgetHead (tag : Byte) (head : Nat) (s : State) : Result :=
  .next (takeOrder (.forgetHead tag head) tag 0x20 (ownForgetHead head) s)

/-- CONFIGURE_UNIT (R2). -/
def execConfigureUnit (tag : Byte) (f : UnitFields) (s : State) : Result :=
  .next (takeOrder (.configureUnit tag f) tag 0x10 (ownConfigureUnit f) s)

/-- START (R3). -/
def execStart (tag : Byte) (s : State) : Result := .next (takeOrder (.start tag) tag 0x11 ownStart s)

/-- HALT (R10). -/
def execHalt (tag : Byte) (s : State) : Result := .next (takeOrder (.halt tag) tag codeHalt ownHalt s)

/-- BIND_OUTLET (R45). -/
def execBindOutlet (tag : Byte) (f : BindFields) (s : State) : Result :=
  .next (takeOrder (.bindOutlet tag f) tag 0x30 (ownBindOutlet f) s)

/-- ALTER_OUTLET (R47). -/
def execAlterOutlet (tag : Byte) (head outlet current priority : Nat) (s : State) : Result :=
  .next (takeOrder (.alterOutlet tag head outlet current priority) tag 0x31 (ownAlterOutlet head outlet current priority) s)

/-- RELEASE_OUTLET (R48). -/
def execReleaseOutlet (tag : Byte) (head outlet : Nat) (s : State) : Result :=
  .next (takeOrder (.releaseOutlet tag head outlet) tag codeReleaseOutlet (ownReleaseOutlet tag head outlet) s)

/-- READ_OUTLET (R53). -/
def execReadOutlet (tag : Byte) (head outlet : Nat) (s : State) : Result :=
  .next (takeOrder (.readOutlet tag head outlet) tag 0x33 (ownReadOutlet head outlet) s)

/-- SET_CONTRACT (R85). -/
def execSetContract (tag : Byte) (t : Nat) (f : ContractFields) (s : State) : Result :=
  .next (takeOrder (.setContract tag t f) tag 0x40 (ownSetContract t f) s)

/-- HOLD_TENANT (R90). -/
def execHoldTenant (tag : Byte) (t : Nat) (s : State) : Result :=
  .next (takeOrder (.holdTenant tag t) tag 0x41 (ownHoldTenant t) s)

/-- RESUME_TENANT (R91). -/
def execResumeTenant (tag : Byte) (t : Nat) (s : State) : Result :=
  .next (takeOrder (.resumeTenant tag t) tag 0x42 (ownResumeTenant t) s)

/-- STATEMENT (R93). -/
def execStatement (tag : Byte) (t clearPeak : Nat) (s : State) : Result :=
  .next (takeOrder (.statement tag t clearPeak) tag codeStatement (ownStatement tag t clearPeak) s)

/-- CLOSE_TENANT (R95). -/
def execCloseTenant (tag : Byte) (t : Nat) (s : State) : Result :=
  .next (takeOrder (.closeTenant tag t) tag codeCloseTenant (ownCloseTenant tag t) s)

/-- RESET_TENANT (R97). -/
def execResetTenant (tag : Byte) (t : Nat) (s : State) : Result :=
  .next (takeOrder (.resetTenant tag t) tag 0x45 (ownResetTenant t) s)

/-- RESET_UNIT (R193). -/
def execResetUnit (tag : Byte) (option : Nat) (s : State) : Result :=
  .next (takeOrder (.resetUnit tag option) tag codeResetUnit (ownResetUnit option) s)

/-- IDENTIFY (R190). -/
def execIdentify (tag : Byte) (s : State) : Result := .next (takeOrder (.identify tag) tag 0x01 ownIdentify s)

/-- LOCK_GROUPS (R191). -/
def execLockGroups (tag : Byte) (mask : BitVec 16) (s : State) : Result :=
  .next (takeOrder (.lockGroups tag mask) tag 0x03 (ownLockGroups mask) s)

/-- UNLOCK_GROUPS (R192). -/
def execUnlockGroups (tag : Byte) (mask : BitVec 16) (s : State) : Result :=
  .next (takeOrder (.unlockGroups tag mask) tag 0x04 (ownUnlockGroups mask) s)

/-- ACK_NOTICE (R173). -/
def execAckNotice (tag : Byte) (source : Nat) (causes : BitVec 16) (s : State) : Result :=
  .next (takeOrder (.ackNotice tag source causes) tag 0x60 (ownAckNotice source causes) s)

/-- SET_NOTICE_MASK (R175). -/
def execSetNoticeMask (tag : Byte) (mask : BitVec 16) (s : State) : Result :=
  .next (takeOrder (.setNoticeMask tag mask) tag 0x61 (ownSetNoticeMask mask) s)

/-- RESTORE_OUTLETS (R156). -/
def execRestoreOutlets (tag : Byte) (t : Nat) (s : State) : Result :=
  .next (takeOrder (.restoreOutlets tag t) tag codeRestoreOutlets (ownRestoreOutlets tag t) s)

end Sys2Proof.Machine
end

