-- ==== Sys2Proof/Machine/Dispatch.lean ====
section
/-! DEFINITION. One arm per command: each calls its meaning. -/

namespace Sys2Proof.Machine

def exec (i : Instr) (s : State) : Host.Outcome State Fault Refusal :=
  match i with
  | .powerOn uaddr service => Sys2Proof.Machine.execPowerOn uaddr service s
  | .pinReset uaddr service => Sys2Proof.Machine.execPinReset uaddr service s
  | .tick => Sys2Proof.Machine.execTick s
  | .cadenceExpiry => Sys2Proof.Machine.execCadenceExpiry s
  | .sync => Sys2Proof.Machine.execSync s
  | .switch => Sys2Proof.Machine.execSwitch s
  | .poll => Sys2Proof.Machine.execPoll s
  | .probe => Sys2Proof.Machine.execProbe s
  | .replyWaitClose => Sys2Proof.Machine.execReplyWaitClose s
  | .replyFrame first rest => Sys2Proof.Machine.execReplyFrame first rest s
  | .strayFrame => Sys2Proof.Machine.execStrayFrame s
  | .roundEnd => Sys2Proof.Machine.execRoundEnd s
  | .deliveryTake records => Sys2Proof.Machine.execDeliveryTake s records
  | .close => Sys2Proof.Machine.execClose s
  | .armExpiry tenant handed => Sys2Proof.Machine.execArmExpiry tenant handed s
  | .shedFailed tenant handed => Sys2Proof.Machine.execShedFailed tenant handed s
  | .restoreLimit tenant => Sys2Proof.Machine.execRestoreLimit tenant s
  | .trunkFrame first rest => Sys2Proof.Machine.execTrunkFrame first rest s
  | .replyWindowExpiry => Sys2Proof.Machine.execReplyWindowExpiry s
  | .replyStart => Sys2Proof.Machine.execReplyStart s
  | .frameTransmitEnd => Sys2Proof.Machine.execFrameTransmitEnd s
  | .arbitrationLost inHeader => Sys2Proof.Machine.execArbitrationLost inHeader s
  | .idleGap => Sys2Proof.Machine.execIdleGap s
  | .identify tag => Sys2Proof.Machine.execIdentify tag s
  | .resetUnit tag option => Sys2Proof.Machine.execResetUnit tag option s
  | .fullReset => Sys2Proof.Machine.execFullReset s
  | .accountsReset => Sys2Proof.Machine.execAccountsReset s
  | .broadcastHalt => Sys2Proof.Machine.execBroadcastHalt s
  | .broadcastResetUnit option => Sys2Proof.Machine.execBroadcastResetUnit option s
  | .lockGroups tag mask => Sys2Proof.Machine.execLockGroups tag mask s
  | .unlockGroups tag mask => Sys2Proof.Machine.execUnlockGroups tag mask s
  | .configureUnit tag fields => Sys2Proof.Machine.execConfigureUnit tag fields s
  | .start tag => Sys2Proof.Machine.execStart tag s
  | .halt tag => Sys2Proof.Machine.execHalt tag s
  | .forgetHead tag head => Sys2Proof.Machine.execForgetHead tag head s
  | .bindOutlet tag fields => Sys2Proof.Machine.execBindOutlet tag fields s
  | .alterOutlet tag head outlet current priority => Sys2Proof.Machine.execAlterOutlet tag head outlet current priority s
  | .releaseOutlet tag head outlet => Sys2Proof.Machine.execReleaseOutlet tag head outlet s
  | .readOutlet tag head outlet => Sys2Proof.Machine.execReadOutlet tag head outlet s
  | .setContract tag tenant fields => Sys2Proof.Machine.execSetContract tag tenant fields s
  | .holdTenant tag tenant => Sys2Proof.Machine.execHoldTenant tag tenant s
  | .resumeTenant tag tenant => Sys2Proof.Machine.execResumeTenant tag tenant s
  | .closeTenant tag tenant => Sys2Proof.Machine.execCloseTenant tag tenant s
  | .statement tag tenant clearPeak => Sys2Proof.Machine.execStatement tag tenant clearPeak s
  | .resetTenant tag tenant => Sys2Proof.Machine.execResetTenant tag tenant s
  | .restoreOutlets tag tenant => Sys2Proof.Machine.execRestoreOutlets tag tenant s
  | .ackNotice tag source causes => Sys2Proof.Machine.execAckNotice tag source causes s
  | .setNoticeMask tag mask => Sys2Proof.Machine.execSetNoticeMask tag mask s
  | .trunkReceptionIdleEnd => Sys2Proof.Machine.execTrunkReceptionIdleEnd s

end Sys2Proof.Machine
end

