-- ==== Sys2Proof/Safety.lean ====
section
/-! DEFINITION. What it means for a run to go on, and the invariants of the cadence, of the feed states, of the queues and of the order path. -/

namespace Sys2Proof

/-- A step answers a next state. -/
def stepGoesOn (s : Machine.State) : Prop := ∃ t, Machine.step s = .next t

/-- The first `k` steps from a state go on. -/
def safeFor (k : Nat) (s : Machine.State) : Prop := ∃ t, Sys2Proof.core.run k s = .next t

namespace Machine

/-- What the Switch Queue tells two entries apart by (2.6). -/
def SwitchEntry.order (e : SwitchEntry) : OutletAddr × Direction := (e.addr, e.direction)

/-- The Switch Queue holds at most 16 entries, no two of the same head, outlet and direction (2.6, R34). -/
structure SwitchQueueInv (m : MeterLink) : Prop where
  depth : m.switchQueue.length ≤ Config.switchQueueDepth
  distinct : (m.switchQueue.map SwitchEntry.order).Nodup

/-- The Notice Queue holds each source at most once (R167). -/
def NoticeQueueInv (n : NoticeUnit) : Prop := n.queue.Nodup

/-- The upstream queues stay within their depths, and the order path, the Reply slot, the transmitter and the broadcast orders agree: a reply
waits exactly while the path is held by one, what is being transmitted is there, and a broadcast order waits only while a unicast order is
with its owner (R183, R185, R187, R188, R196, R198, R199, R200). -/
structure TrunkInv (p : TrunkPort) : Prop where
  completions : p.completions.length ≤ Config.completionDepth
  summaries : p.summaries.length ≤ Config.summaryDepth
  forwards : p.forwards.length ≤ Config.forwardDepth
  drops : p.dropCount ≤ Config.dropMax
  slot : p.path = .replying ↔ p.slot ≠ none
  reply : p.sending = .reply → p.slot ≠ none
  inHand : p.sending = .inHand → p.inHand ≠ none
  waiting : p.broadcasts ≠ [] → ∃ c, p.path = .atOwner c

/-- The interval length is one that CONFIGURE-UNIT takes; the countdown has a value from 1 to IL × 100 in RUNNING alone, where the
configured flag is set; outside RUNNING no collecting period exists and no expiry is due; in CONFIG N is 0 (1.2, 1.3, R2, R3, R4, R7). -/
structure CadenceInv (ct : CadenceTimer) : Prop where
  interval : 1 ≤ ct.config.il ∧ ct.config.il ≤ 10
  running : ct.runState = .running → ct.configured = true ∧ ∃ c, ct.countdown = some c ∧ 1 ≤ c ∧ c ≤ ct.config.il * Config.ticksPerSecond
  stopped : ct.runState ≠ .running → ct.countdown = none ∧ ct.collectingOpen = false ∧ ct.expiriesDue = 0
  config : ct.runState = .config → ct.n = 0

/-- A feed that is not RETURNING has restore count 0 (7.1, R133, R134, R135). -/
structure FeedsInv (f : FeedMonitor) : Prop where
  a : f.a.state ≠ .returning → f.a.count = 0
  b : f.b.state ≠ .returning → f.b.count = 0

/-- The invariant of the cadence, of the feed states, of the queues and of the order path. -/
structure BlockInv (s : State) : Prop where
  cadence : CadenceInv s.ct
  feeds : FeedsInv s.fm
  switchQueue : SwitchQueueInv s.mlc
  noticeQueue : NoticeQueueInv s.nu
  trunk : TrunkInv s.tp

end Machine

end Sys2Proof
end

