-- ==== Sys2Proof/Certificates/Slice0/Obligations.lean ====
section
/-! DEFINITION. The statements about the block: what each command does, by the numbered rules of the manual, what it leaves as it stands, and the invariant that every step keeps. -/

namespace Sys2Proof.Stated

open Sys2Proof.Machine

/-! ### Words the statements share -/

/-- An order is with its owner, and no broadcast order waits behind it. -/
def AtOwner (c : Instr) (s : State) : Prop := s.tp.path = .atOwner c ∧ s.tp.broadcasts = []

/-- TP once an owner has answered: the Reply slot holds the reply, the order path is held by it, and the reply is prompt when the window open
at that moment is its order's own. -/
def replied (tag : Byte) (code : Nat) (status : Status) (result : List Byte) (p : TrunkPort) : TrunkPort :=
  { p with
    slot := some { tag := tag, code := code, status := status, result := result }, path := .replying
    prompt := match p.window with | some w => w.own | none => false }

/-- An order is refused: its reply carries a status and no result, and nothing else changes. -/
def Refused (c : Instr) (tag : Byte) (code : Nat) (status : Status) (s : State) : Prop :=
  exec c s = .next { s with tp := replied tag code status [] s.tp }

/-- The 21 unicast orders. -/
def isOrder : Instr → Bool
  | .identify _ => true
  | .resetUnit _ _ => true
  | .lockGroups _ _ => true
  | .unlockGroups _ _ => true
  | .configureUnit _ _ => true
  | .start _ => true
  | .halt _ => true
  | .forgetHead _ _ => true
  | .bindOutlet _ _ => true
  | .alterOutlet _ _ _ _ _ => true
  | .releaseOutlet _ _ _ => true
  | .readOutlet _ _ _ => true
  | .setContract _ _ _ => true
  | .holdTenant _ _ => true
  | .resumeTenant _ _ => true
  | .closeTenant _ _ => true
  | .statement _ _ _ => true
  | .resetTenant _ _ => true
  | .restoreOutlets _ _ => true
  | .ackNotice _ _ _ => true
  | .setNoticeMask _ _ => true
  | _ => false

/-- TP after the end of an order's frame for this unit, with the path the order leaves. -/
def heardOrder (own : Bool) (path : OrderPath) (p : TrunkPort) : TrunkPort :=
  { p with rx := none, idleTicks := 0, window := some { addr := p.unitAddr, ticks := 0, own := own }, path := path }

/-- What TP keeps beside its upstream queues, its pending copies and the drop count is the same. -/
def SameLine (p q : TrunkPort) : Prop :=
  q = { p with completions := q.completions, summaries := q.summaries, forwards := q.forwards, copies := q.copies, dropCount := q.dropCount }

/-- A unicast order is with its owner. -/
def SomeAtOwner (s : State) : Prop := ∃ o, s.tp.path = .atOwner o

/-- The state at the end of a trunk frame, whose reception is over. -/
def heard (s : State) : State := { s with tp := { s.tp with rx := none, idleTicks := 0 } }

/-- The state at the end of the frame of a broadcast order, which also closes the reply window in progress. -/
def heardBroadcast (s : State) : State := { s with tp := { s.tp with rx := none, idleTicks := 0, window := none } }

/-- TP after the end of a reply: the slot is empty, the path free, the unit's own window closed, no reset waits for the reply. -/
def replySent (p : TrunkPort) : TrunkPort :=
  { p with
    sending := .nothing, idleTicks := 0, slot := none, prompt := false, path := .free, reset := none
    window := p.window.filter fun w => decide (w.addr ≠ p.unitAddr) }

/-- Records have been taken from `s` to `u`: one annotation each, and nothing written but the outlet records, the accounts, the unattributed
accumulator and the cause sets. -/
def RecordsTaken (records : List MeterRecord) (entries : List ForwardEntry) (s u : State) : Prop :=
  entries.length = records.length ∧
    u =
      { s with
        ot := { s.ot with outlets := u.ot.outlets }
        oae := { s.oae with accounts := u.oae.accounts, unattributed := u.oae.unattributed }, nu := u.nu }

/-- The oldest copy leaves the pending list with its annotations: discarded with forward mode OFF, queued for forwarding, or dropped with
FORWARD_LOST when the Forward Queue holds 32. -/
def CopyOffered (entries : List ForwardEntry) (u t : State) : Prop :=
  (u.tp.copies = [] → t = u) ∧
    ∀ c more, u.tp.copies = c :: more →
      (u.ct.config.forwardAll = false → t = { u with tp := { u.tp with copies := more } }) ∧
      (u.ct.config.forwardAll = true → u.tp.forwards.length < 32 →
        t = { u with
          tp := { u.tp with
            copies := more
            forwards := u.tp.forwards ++ [{ head := c.head, stamp := c.stamp, flags := c.flags, entries := entries }] } }) ∧
      (u.ct.config.forwardAll = true → 32 ≤ u.tp.forwards.length →
        t = { latchUnit .forwardLost u with tp := { u.tp with copies := more, dropCount := min 65535 (u.tp.dropCount + 1) } })

/-- The delivery being taken, if there is one, has been taken to its end. -/
def DeliveryEnded (s t : State) : Prop :=
  (s.oae.taking = none → t = s) ∧
    ∀ k, s.oae.taking = some k → ∃ (u : State) (entries : List ForwardEntry),
      takeRecords k.head k.stamp k.rest s = (u, entries) ∧ RecordsTaken k.rest entries s u ∧
        CopyOffered (k.entries ++ entries) { u with oae := { u.oae with taking := none } } t

/-- The closes that wait, as many as the list holds, have been taken one after the other. -/
def ClosesTaken : List WaitingClose → State → State → Prop
  | [], s, t => t = s
  | _ :: rest, s, t => ∃ u, exec .close s = .next u ∧ ClosesTaken rest u t

/-- An address that the poll phase still has to poll. -/
def PollDue (m : MeterLink) (a : Nat) : Prop :=
  (tableGet HeadEntry.initial m.heads a).state ≠ .absent ∧ tableGet .notReached m.marks a ≠ .answered

/-- With no exchange open, the round has come to a position of the poll walk: POLL while an address from there on is to be polled, else PROBE while
some address is ABSENT, else complete (that a phase with nothing left to do ends at once: log entry 14). -/
def WalkFrom (pos : Nat) (m : MeterLink) : Prop :=
  m.pollPos = pos ∧ (m.phase = .poll ↔ ∃ a, pos ≤ a ∧ a ≤ 32 ∧ PollDue m a) ∧
    (m.phase = .probe ↔ (∀ a, pos ≤ a → a ≤ 32 → ¬ PollDue m a) ∧
      ∃ a, 1 ≤ a ∧ a ≤ 32 ∧ (tableGet HeadEntry.initial m.heads a).state = .absent) ∧
    m.phase ≠ .idle ∧ m.phase ≠ .switch

/-- Every field of CONFIGURE-UNIT lies in its range. -/
def ConfigRanges (f : UnitFields) : Prop :=
  1 ≤ f.il ∧ f.il ≤ 10 ∧ 90 ≤ f.voltA ∧ f.voltA ≤ 500 ∧ 90 ≤ f.voltB ∧ f.voltB ≤ 500 ∧ f.staleLimit ≤ 15 ∧ 1 ≤ f.lostLimit ∧
    f.lostLimit ≤ 60 ∧ 1 ≤ f.restoreCount ∧ f.restoreCount ≤ 60 ∧ f.threshold ≤ 65535 ∧ f.forwardMode ≤ 1

/-- CT, the round and the collecting period after a HALT acted on in RUNNING. The state that is halted is the one after a round end that waits, each
close that waits and the rest of a delivery being taken; nothing else changes. -/
def Halted (s t : State) : Prop :=
  t.ct = { s.ct with countdown := none, collectingOpen := false, runState := .halted, expiriesDue := 0 } ∧ t.pending = s.pending ∧
    t.mlc.phase = .idle ∧ t.mlc.wait = none ∧ t.mlc.repollDue = none ∧ t.mlc.syncDue = none ∧ t.mlc.roundEndDue = false ∧
    t.mlc.tally = { frames := 0, absentA := 0, absentB := 0 } ∧ SameLine s.tp t.tp ∧ t.oae.taking = none ∧
    (∀ k, (t.account k).accA = 0 ∧ (t.account k).accB = 0 ∧ (t.account k).incomplete = false) ∧
    ∃ v w u, exec .roundEnd s = .next v ∧ ClosesTaken s.oae.closes v w ∧ DeliveryEnded w u ∧
      t =
        { u with
          ct := t.ct
          mlc := { u.mlc with
            phase := .idle, wait := none, repollDue := none, syncDue := none, roundEndDue := false
            tally := { frames := 0, absentA := 0, absentB := 0 } }
          oae := { u.oae with accounts := t.oae.accounts } } ∧
      ∀ k, t.account k = { u.account k with accA := 0, accB := 0, incomplete := false }

/-- The state after a FULL reset: the FULL values, with what a FULL reset keeps. -/
def fullValues (s : State) : State :=
  { State.reset with
    ct := { State.reset.ct with prescaler := s.ct.prescaler }
    tp := { State.reset.tp with
      idleTicks := s.tp.idleTicks, lockMap := s.tp.lockMap, unitAddr := s.tp.unitAddr, service := s.tp.service
      resetCause := .orderFull, lastSent := s.tp.lastSent }
    pending := s.pending }

/-- An ACCOUNTS reset: what it clears and what it keeps, block by block. -/
def AccountsValues (s t : State) : Prop :=
  t.ct = s.ct ∧ t.pending = s.pending ∧ t.es = { tenants := [] } ∧
    t.fm = { a := { state := .present, count := 0 }, b := { state := .present, count := 0 } } ∧
    (∀ a, t.head a = { s.head a with errorCount := 0 }) ∧
    t.mlc = { s.mlc with heads := t.mlc.heads, switchQueue := [], walkPos := 0, phase := t.mlc.phase, pollPos := t.mlc.pollPos } ∧
    (s.mlc.phase ≠ .switch → t.mlc.phase = s.mlc.phase ∧ t.mlc.pollPos = s.mlc.pollPos) ∧
    (s.mlc.phase = .switch → t.mlc.pollPos = 1 ∧ t.mlc.phase ≠ .switch ∧ t.mlc.phase ≠ .idle ∧
      (s.mlc.wait = none → s.mlc.repollDue = none → WalkFrom 1 t.mlc)) ∧
    (∀ k, t.outlet k = { s.outlet k with discontinuities := 0, shedMark := false, completionOwed := none }) ∧
    t.ot.bindCounter = s.ot.bindCounter ∧ t.ot.boundCount = s.ot.boundCount ∧
    (∀ k, t.account k = { s.account k with lastIncomplete := false }) ∧ t.oae.unattributed = 0 ∧
    t.oae.deliveries = s.oae.deliveries ∧ t.oae.taking = s.oae.taking ∧ t.oae.closes = s.oae.closes ∧
    (∀ k, t.tenant k =
      { State.reset.tenant k with
        state := (s.tenant k).state, stateBeforeClose := (s.tenant k).stateBeforeClose, contract := (s.tenant k).contract
        pendingLimits := (s.tenant k).pendingLimits }) ∧
    t.tl.count = s.tl.count ∧
    t.nu.unit = s.nu.unit ∧ (∀ k, t.causes k = { s.causes k with latched := 0, unreported := 0 }) ∧
    t.nu.queue = (if s.nu.unit.unreported &&& s.nu.unit.mask = 0 then [] else [0]) ∧
    t.tp =
      { s.tp with
        completions := [], summaries := [], forwards := [], dropCount := 0, resetCause := .orderAccounts
        inHand := t.tp.inHand, sending := t.tp.sending } ∧
    (∀ n, s.tp.inHand = some (.notice n) → t.tp.inHand = some (.notice n) ∧ t.tp.sending = s.tp.sending) ∧
    ((∀ n, s.tp.inHand ≠ some (.notice n)) → t.tp.inHand = none ∧
      t.tp.sending = (if s.tp.sending = .inHand then .nothing else s.tp.sending))

/-- A broadcast order handed to its owner: HALT as accepted in RUNNING and without effect otherwise; RESET-UNIT as the reset it names where it
would be accepted, and without effect otherwise. -/
def Handed (c : Instr) (s t : State) : Prop :=
  match c with
  | .broadcastHalt => (s.ct.runState ≠ .running → t = s) ∧ (s.ct.runState = .running → Halted s t)
  | .broadcastResetUnit option =>
    (option = 1 → (s.tp.lockMap = 0 ∨ s.tp.service = true) → t = fullValues s) ∧ (option = 2 → AccountsValues s t) ∧
      ((option ≠ 1 ∧ option ≠ 2 ∨ option = 1 ∧ s.tp.lockMap ≠ 0 ∧ s.tp.service = false) → t = s)
  | _ => t = s

/-- Broadcast orders handed to their owners one after the other. -/
def HandedInTurn : List Instr → State → State → Prop
  | [], s, t => t = s
  | c :: rest, s, t => ∃ u, Handed c s u ∧ HandedInTurn rest u t

/-- An address that the poll phase still has to poll. -/
def ToPoll (s : State) (a : Nat) : Prop := (s.head a).state ≠ .absent ∧ s.mark a ≠ .answered

/-- A Head Table entry after a miss, with the lost limit. -/
def missed (limit : Nat) (e : HeadEntry) : HeadEntry :=
  { e with
    silence := min 255 (e.silence + 1)
    state := if limit ≤ min 255 (e.silence + 1) then .lost else if e.state = .present then .silent else e.state }

/-- From `u`, a poll has ended not answered: a miss of the address and the walk past it, or the end of the probe phase. -/
def NotAnswered (w : ReplyWait) (u t : State) : Prop :=
  (w.kind = .probe → t = { u with mlc := { u.mlc with wait := none, phase := .complete } }) ∧
    (w.kind ≠ .probe →
      t = { u with mlc := t.mlc, nu := t.nu } ∧
      t.mlc =
        { u.mlc with
          heads := t.mlc.heads, marks := t.mlc.marks, phase := t.mlc.phase, wait := none, repollDue := none, pollPos := t.mlc.pollPos } ∧
      t.head w.addr = missed u.ct.config.lostLimit (u.head w.addr) ∧ (∀ a, a ≠ w.addr → t.head a = u.head a) ∧
      t.mark w.addr = .missed ∧ (∀ a, a ≠ w.addr → t.mark a = u.mark a) ∧
      (u.mlc.phase = .poll → WalkFrom (w.addr + 1) t.mlc) ∧
      t.nu =
        (if (u.head w.addr).state ≠ .lost ∧ u.ct.config.lostLimit ≤ min 255 ((u.head w.addr).silence + 1) then
          (latchUnit .headLost u).nu else u.nu))

/-- A frame that passes the CRC check: no framing error, 7 to 295 bytes, the last one the CRC-8 of those before it. -/
def FrameSound (bytes : List Byte) (framingError : Bool) : Prop :=
  framingError = false ∧ 7 ≤ bytes.length ∧ bytes.length ≤ 295 ∧ bytes.getLast? = some (crc8 bytes.dropLast)

/-- The causes of a feed's move: FEED_LOST from PRESENT to LOST, FEED_RESTORED from RETURNING to PRESENT, none otherwise. -/
def feedMoved (before after : FeedWatch) (s : State) : State :=
  if before.state = .present ∧ after.state = .lost then latchUnit .feedLost s
  else if before.state = .returning ∧ after.state = .present then latchUnit .feedRestored s
  else s

/-- An address that the end of a round counts as missed: still to be polled or being polled, with no outcome yet. -/
def MissedAtEnd (s : State) (a : Nat) : Prop :=
  (s.mlc.phase = .switch ∨ s.mlc.phase = .poll) ∧ 1 ≤ a ∧ a ≤ 32 ∧ (s.head a).state ≠ .absent ∧ s.mark a = .notReached

/-- An outlet address that exists. -/
def IsOutlet (h o : Nat) : Prop := 1 ≤ h ∧ h ≤ 32 ∧ o ≤ 47

/-- A flag in a byte. -/
def flagOf (b : Bool) : Byte := if b then 1 else 0

/-- The code of a switch state. -/
def switchByte : SwitchState → Byte
  | .off => 0
  | .on => 1
  | .unknown => 2

/-- The bytes of an outlet record, all but the last: address, binding, feed, rated current, priority, bind sequence, share count, four share
slots of tenant, share and held rate, unattributed rate, baseline, last counter, last stamp, switch state, discontinuity count, shed mark,
and whether a completion is owed. -/
def outletRecord (h o : Nat) (x : Outlet) : List Byte :=
  [b1 h, b1 o] ++ [match x.binding with | .unbound => 0#8 | .bound => 1#8 | .releasing => 2#8] ++
    [match x.feed with | .a => 0#8 | .b => 1#8] ++ [b1 x.current, b1 x.priority] ++ be 4 x.bindSeq ++ [b1 x.shares.length] ++
    (x.shares.take 4).flatMap (fun e => [b1 e.tenant] ++ be 2 e.share ++ be 3 e.rate) ++
    List.replicate (24 - 6 * (x.shares.take 4).length) 0#8 ++ be 3 x.unattributedRate ++
    [match x.baseline with | .noBaseline => 0#8 | .live => 1#8 | .stale => 2#8] ++ be 4 x.lastCounter.toNat ++ be 2 x.lastStamp.toNat ++
    [switchByte x.switchState] ++ [b1 x.discontinuities] ++ [flagOf x.shedMark] ++
    [flagOf x.completionOwed.isSome]

/-- Every range check of BIND-OUTLET passes. -/
def BindRanges (f : BindFields) : Prop :=
  IsOutlet f.head f.outlet ∧ f.feed ≤ 1 ∧ 1 ≤ f.current ∧ f.current ≤ 63 ∧ f.priority ≤ 7 ∧ 1 ≤ f.entries.length ∧
    f.entries.length ≤ 4 ∧ (∀ e ∈ f.entries, 1 ≤ e.1 ∧ e.1 ≤ 127) ∧ (f.entries.map Prod.fst).Nodup ∧ (∀ e ∈ f.entries, 1 ≤ e.2) ∧
    (f.entries.map Prod.snd).sum = 256 ∧ (f.priority = 0 ∨ f.entries.length = 1)

/-- The group of a tenant is set in the lock map. -/
def GroupLocked (s : State) (n : Nat) : Prop := s.tp.lockMap.getLsbD (n / 8) = true

/-- Some tenant of a share list is locked. -/
def SomeLocked (s : State) (o : Outlet) : Prop := ∃ e ∈ o.shares, GroupLocked s e.tenant

/-- The state differs from another in one outlet record. -/
def OneOutlet (k : Nat) (o : Outlet) (s t : State) : Prop :=
  t = { s with ot := { s.ot with outlets := t.ot.outlets } } ∧ t.outlet k = o ∧ ∀ j, j ≠ k → t.outlet j = s.outlet j

/-- The outlet record after a record that sets its baseline. -/
def rebased (o : Outlet) (stamp : Period) (r : MeterRecord) : Outlet :=
  { o with lastCounter := r.counter, lastStamp := stamp, baseline := .live, switchState := r.switchState }

/-- The annotation of a record that attributes nothing or nothing to a tenant. -/
def Annotated (o : Outlet) (r : MeterRecord) (flag : RecordFlag) (delta : Nat) (x : ForwardEntry) : Prop :=
  x = { outlet := r.outlet, switchState := r.switchState, flag := flag, primary := x.primary, delta := delta } ∧
    (o.binding = .unbound → x.primary = 0) ∧ (∀ e rest, o.binding ≠ .unbound → o.shares = e :: rest → x.primary = e.tenant)

/-- The product whose quarter is the plausibility ceiling. -/
def ceiling (s : State) (o : Outlet) (k : Nat) : Nat :=
  o.current * (if o.feed = .a then s.ct.config.voltA else s.ct.config.voltB) * k * s.ct.config.il * 5 / 4

/-- A state after a gap or a discontinuity whose outlet record is `o'`: the share tenants of a bound outlet are marked incomplete and
OUTLET_SUSPECT is latched for each. -/
def Suspected (k : Nat) (o o' : Outlet) (s t : State) : Prop :=
  t = { s with ot := t.ot, oae := t.oae, nu := t.nu } ∧ t.ot = { s.ot with outlets := t.ot.outlets } ∧ t.outlet k = o' ∧
    (∀ j, j ≠ k → t.outlet j = s.outlet j) ∧ t.oae = { s.oae with accounts := t.oae.accounts } ∧
    (o.binding = .unbound → t.oae = s.oae ∧ t.nu = s.nu) ∧
    (o.binding ≠ .unbound →
      t.nu = ((o.shares.map ShareEntry.tenant).foldl (fun u n => latchTenant .outletSuspect n u) s).nu ∧
      (∀ n, (∃ e ∈ o.shares, e.tenant = n) → t.account n = { s.account n with incomplete := true }) ∧
      (∀ n, (∀ e ∈ o.shares, e.tenant ≠ n) → t.account n = s.account n))

/-- MLC once the OFF entries of a tenant have been withdrawn: the other entries keep their order and the switch walk its place among them, a
switch phase that is left with nothing to send ends, and every other field is as before. -/
def OffWithdrawn (n : Nat) (m m' : MeterLink) : Prop :=
  (∃ keep : SwitchEntry → Bool, keep = (fun e => decide (¬ (e.direction = .off ∧ e.tenant = n))) ∧
    m' =
      { m with
        switchQueue := m.switchQueue.filter keep, walkPos := ((m.switchQueue.take m.walkPos).filter keep).length
        phase := m'.phase, pollPos := m'.pollPos }) ∧
    (m.phase ≠ .switch → m'.phase = m.phase ∧ m'.pollPos = m.pollPos) ∧ (m'.phase = .switch → m'.pollPos = m.pollPos) ∧
    (m.phase = .switch → m'.phase ≠ .switch → m'.pollPos = 1 ∧ (m.wait = none → m.repollDue = none → WalkFrom 1 m')) ∧
    (m.phase = .switch → (m'.phase = .switch ↔
      ∃ e ∈ m'.switchQueue.drop m'.walkPos, (tableGet HeadEntry.initial m.heads e.addr.head).state = .present))

/-- TL, ES, the Switch Queue and the Completion Queue once the stage of a tenant has been returned to IDLE. -/
def StageReturned (n : Nat) (s t : State) : Prop :=
  t = { s with mlc := t.mlc, tl := t.tl, es := t.es, tp := t.tp } ∧
    (t.esc n).stage = .idle ∧ (t.esc n).shedOrder = (s.esc n).shedOrder ∧ (t.esc n).failed = (s.esc n).failed ∧
    (∀ m, m ≠ n → t.esc m = s.esc m ∧ t.tenant m = s.tenant m) ∧ t.tl.count = s.tl.count ∧
    t.tenant n = { s.tenant n with slot := (t.tenant n).slot } ∧
    ((s.esc n).stage = .idle → t = s) ∧
    ((s.esc n).stage = .armed → t = { s with es := t.es } ∧ (t.esc n).countdown = none) ∧
    ((s.esc n).stage = .shedding → t = { s with mlc := t.mlc, es := t.es } ∧ (t.esc n).awaiting = none ∧ OffWithdrawn n s.mlc t.mlc) ∧
    ((s.esc n).stage = .shedHold → t = { s with es := t.es }) ∧
    (∀ tag, (s.esc n).stage = .restoring → (s.tenant n).slot = .restoreOutlets tag → ∃ outcome k,
      k = (s.esc n).tallies.getD { confirmed := 0, alreadyOn := 0, atLimit := 0 } ∧
      outcome = (if (s.esc n).shedOrder = [] then (if k.atLimit = 0 then .restored else .partialRestore) else .abandoned) ∧
      (t.esc n).awaiting = none ∧ (t.esc n).cursor = none ∧ t.mlc = s.mlc ∧
      (s.tp.completions.length < 32 → (t.tenant n).slot = .empty ∧
        t.tp = { s.tp with
          completions := s.tp.completions ++ [{ code := 0x50, tag := tag, outcome := outcome, body := .restore n k }] }) ∧
      (32 ≤ s.tp.completions.length → (t.tenant n).slot = .owed .restoreOutlets tag outcome (some k) ∧ t.tp = s.tp))

/-- A tenant record whose machines have been closed by an order: the open breaches enter the log, BURST first, both machines are CLEAR. -/
def MachinesClosed (outcome : BreachOutcome) (r r' : Tenant) : Prop :=
  r' = { r with breachLog := r'.breachLog, burst := r'.burst, demand := r'.demand } ∧
    r'.burst = { state := .clear, count := 0, breach := none } ∧ r'.demand = { state := .clear, count := 0, breach := none } ∧
    ∃ closed : List ClosedBreach,
      closed =
        (match r.burst.breach with
          | none => []
          | some b =>
            [{ kind := .burst, feeds := b.feeds, start := b.start, duration := (r.lastSettled.getD b.start - b.start).toNat
               peak := b.peak, outcome := outcome }]) ++
          (match r.demand.breach with
          | none => []
          | some b =>
            [{ kind := .demand, feeds := b.feeds, start := b.start, duration := (r.lastSettled.getD b.start - b.start).toNat
               peak := b.peak, outcome := outcome }]) ∧
      (closed = [] → r'.breachLog = r.breachLog) ∧
      (closed ≠ [] → r'.breachLog = (r.breachLog ++ closed).drop (r.breachLog.length + closed.length - 4))

/-- A machine that enters BREACH. -/
def Entered (c : Period) (ev : Evaluation) : MachineStep :=
  { machine := { state := .breach, count := 0, breach := some { start := c, peak := ev.peak, feeds := ev.feedsOver, shed := false } }
    move := some .entry, closed := none }

/-- A tenant number that exists. -/
def IsTenant (n : Nat) : Prop := 1 ≤ n ∧ n ≤ 127

/-- Every range check of SET-CONTRACT passes. -/
def ContractRanges (n : Nat) (f : ContractFields) : Prop :=
  IsTenant n ∧ f.cls ≤ 1 ∧ 1 ≤ f.capacity1 ∧ f.capacity1 ≤ 1048575 ∧
    (f.cls = 0 ∧ f.capacity2 = 0 ∨ f.cls = 1 ∧ 1 ≤ f.capacity2 ∧ f.capacity2 ≤ 1048575) ∧
    100 ≤ f.burstPercent ∧ f.burstPercent ≤ 250 ∧ f.hysteresis ≤ 255 ∧ f.demandGrace ≤ 15 ∧ f.burstGrace ≤ 15 ∧ 1 ≤ f.easeCount ∧
    f.easeCount ≤ 15 ∧ 1 ≤ f.bucketLength ∧ f.bucketLength ≤ 255 ∧ 1 ≤ f.buckets ∧ f.buckets ≤ 16 ∧ f.windowMode ≤ 1 ∧ f.action ≤ 2 ∧
    f.delayCode ≤ 7 ∧ f.source ≤ 1 ∧ f.summary ≤ 1 ∧ f.mask &&& 0xF800 = 0

/-- The contract that the fields of an order stand for. -/
def contractFrom (f : ContractFields) : Contract :=
  { window :=
      { cls := if f.cls = 0 then .pooled else .perFeed, bucketLength := f.bucketLength, buckets := f.buckets
        mode := if f.windowMode = 0 then .rolling else .block }
    limits :=
      { capacity1 := f.capacity1, capacity2 := f.capacity2, burstPercent := f.burstPercent, hysteresis := f.hysteresis
        demandGrace := f.demandGrace, burstGrace := f.burstGrace, easeCount := f.easeCount
        action := if f.action = 0 then .noticeOnly else if f.action = 1 then .delayedShed else .immediateShed
        delayCode := f.delayCode, sourceBoth := decide (f.source = 1), summary := decide (f.summary = 1), mask := f.mask } }

/-- The state differs from another in one tenant record. -/
def OneTenant (n : Nat) (r : Tenant) (s t : State) : Prop :=
  t = { s with tl := { s.tl with tenants := t.tl.tenants } } ∧ t.tenant n = r ∧ ∀ m, m ≠ n → t.tenant m = s.tenant m

/-- The state differs from another in what ES keeps of one tenant. -/
def OneEsc (n : Nat) (e : Escalation) (s t : State) : Prop :=
  t = { s with es := t.es } ∧ t.esc n = e ∧ ∀ m, m ≠ n → t.esc m = s.esc m

/-- The stage has become SHEDDING and SHED_STARTED is latched. -/
def SheddingEntered (n : Nat) (s t : State) : Prop :=
  ∃ u, OneEsc n { s.esc n with stage := .shedding, countdown := none } s u ∧ t = latchTenant .shedStarted n u

/-- A completion has been placed in the Completion Queue. -/
def placed (c : Completion) (s : State) : State := { s with tp := { s.tp with completions := s.tp.completions ++ [c] } }

/-- A tenant has passed to VACANT: its record and its cause set are as after power-on, the count is one lower, its source has left the Notice
Queue, its failed set is empty. -/
def Vacated (n : Nat) (s t : State) : Prop :=
  t =
    { s with
      oae := { s.oae with accounts := t.oae.accounts }
      tl := { s.tl with tenants := t.tl.tenants, count := s.tl.count - 1 }
      es := t.es
      nu := { s.nu with tenants := t.nu.tenants, queue := s.nu.queue.filter fun x => decide (x ≠ n) } } ∧
    t.tenant n = State.reset.tenant n ∧ (∀ m, m ≠ n → t.tenant m = s.tenant m) ∧
    t.causes n = State.reset.causes n ∧ (∀ m, m ≠ n → t.causes m = s.causes m) ∧
    t.esc n = { s.esc n with failed := [] } ∧ (∀ m, m ≠ n → t.esc m = s.esc m) ∧
    t.account n = { s.account n with lastIncomplete := false } ∧ ∀ m, m ≠ n → t.account m = s.account m

/-- The statement of a tenant under a contract, from its record and its stage. -/
def statementUnder (n : Nat) (c : Period) (k : Contract) (r : Tenant) (g : Stage) : Statement :=
  { tenant := n, period := c, state := r.state, cls := k.window.cls, capacity1 := k.limits.capacity1, capacity2 := k.limits.capacity2
    lifetimeA := r.lifetimeA, lifetimeB := r.lifetimeB, ringEntries := r.ring.length, ringSumA := (r.ring.map RingEntry.energyA).sum
    ringSumB := (r.ring.map RingEntry.energyB).sum, ringIncomplete := (r.ring.filter fun e => e.incomplete).length
    lastDemand := r.lastDemand, peak := r.peak, burstState := r.burst.state, burstCount := r.burst.count, demandState := r.demand.state
    demandCount := r.demand.count, breachLog := r.breachLog, stage := g, coveredFeed := r.coveredFeed, allowanceTail := r.allowanceTail }

/-- The tenant is relieved: some feed is evaluated, and each relief feed's value is at or below its exit. -/
def Relieved (n : Nat) (handed : List HandedFeed) (s : State) : Prop :=
  handed ≠ [] ∧ ∀ x ∈ reliefFeeds (s.tenant n) handed, x.value ≤ x.exit

/-- A feed handed to ES belongs to the offending feeds of a tenant: the feeds recorded in its open breaches; the pooled value always does. -/
def Offending (r : Tenant) (x : HandedFeed) : Prop :=
  match x.scope with
  | .pooled => True
  | .feedA => ∃ b, (r.burst.breach = some b ∨ r.demand.breach = some b) ∧ b.feeds.a = true
  | .feedB => ∃ b, (r.burst.breach = some b ∨ r.demand.breach = some b) ∧ b.feeds.b = true

/-- The tenant is over: the value of some relief feed is above its demand limit. -/
def Over (n : Nat) (handed : List HandedFeed) (s : State) : Prop := ∃ x ∈ reliefFeeds (s.tenant n) handed, x.limit < x.value

/-- Both machines of a tenant are CLEAR. -/
def BothClear (n : Nat) (s : State) : Prop := (s.tenant n).burst.state = .clear ∧ (s.tenant n).demand.state = .clear

/-- A settle can be taken: the unit is RUNNING and a close waits whose round has ended and been judged. -/
def Settling (s : State) : Prop :=
  s.ct.runState = .running ∧ ∃ (c : Period) (f : FeedStates) (rest : List WaitingClose), s.oae.closes = { period := c, feeds := some f } :: rest

/-- The close that is next settles a tenant by the Interval Total `x` under the contract `k`, and `u` is the state in which ES begins its stage
step there, with what TL hands it for each evaluated feed; `after` are the totals still to be settled. -/
def StageReached (n : Nat) (s : State) (k : Contract) (x : IntervalTotal) (after : List IntervalTotal) (handed : List HandedFeed)
    (u : State) : Prop :=
  x.tenant = n ∧ ∃ (c : Period) (f : FeedStates) (rest : List WaitingClose) (v w y z : State) (before totals : List IntervalTotal) (a : AllowanceStep),
    s.oae.closes = { period := c, feeds := some f } :: rest ∧ v = sweep c { s with oae := { s.oae with closes := rest } } ∧
    totals = v.liveTenants.map (intervalTotal c f v) ∧ totals = before ++ x :: after ∧ (∀ o ∈ before, o.tenant ≠ n) ∧
    w = before.foldl settle (endReleases (zeroCollecting (totals.foldl handTotal v))) ∧
    (w.tenant n).state ≠ .vacant ∧
    (w.tenant n).contract.map (fun l => { l with limits := (w.tenant n).pendingLimits.getD l.limits }) = some k ∧
    y = addLifetime x (applyPending n w) ∧ a = allowanceStep k.window (y.tenant n) x.feedA x.feedB ∧ z = applyAllowance n a y ∧
    ((w.tenant n).state = .active → handed = handedFeeds k x (feedLimits k a.holds) ∧
      ∃ (p q : State × List Transition),
        p = burstCheck k x (feedLimits k a.holds) z ∧ q = bucketStep true (decide (a.holds = .both)) k x (feedLimits k a.holds) p.1 ∧
        u = (p.2 ++ q.2).foldl (takeTransition k.limits n) q.1) ∧
    ((w.tenant n).state ≠ .active → handed = [] ∧ u = (bucketStep false (decide (a.holds = .both)) k x [] z).1)

/-- A close ends once the stage step of a tenant has left the state `y`: the rest of that settle, then the settles that follow. -/
def CloseEnds (n : Nat) (k : Contract) (x : IntervalTotal) (after : List IntervalTotal) (y t : State) : Prop :=
  ∃ z, OneTenant n { (summaryStep k x y).tenant n with lastSettled := some x.period } (summaryStep k x y) z ∧
    t = after.foldl settle (slotStep n x.period z)

/-- The outlet of a tenant that awaits is marked, has not the switch state `g`, and its age reaches 3 at this step. -/
def LimitReached (n : Nat) (g : SwitchState) (u : State) (w : Awaiting) : Prop :=
  (u.esc n).awaiting = some w ∧ 3 ≤ w.age + 1 ∧ (u.outlet (w.addr.head * 48 + w.addr.outlet)).shedMark = true ∧
    (u.outlet (w.addr.head * 48 + w.addr.outlet)).switchState ≠ g

/-- A transition that is a trigger under the escalation source of a contract. -/
def Trigger (k : LimitFields) (x : Transition) : Prop := x.move = .entry ∧ (x.machine = .demand ∨ k.sourceBoth = true)

/-- SHEDDING has been left for SHED_HOLD with a cause: the tenant's OFF entries are withdrawn and nothing is awaited. -/
def ShedHeld (c : TenantCause) (n : Nat) (s t : State) : Prop :=
  t = { s with mlc := t.mlc, es := t.es, nu := t.nu } ∧ t.esc n = { s.esc n with stage := .shedHold, awaiting := none } ∧
    (∀ m, m ≠ n → t.esc m = s.esc m) ∧
    OffWithdrawn n s.mlc t.mlc ∧ t.nu = (latchTenant c n s).nu

/-- The awaiting outlet has failed: it joins the failed set, SHED_FAILED is latched, nothing is awaited. -/
def OutletFailed (n : Nat) (a : OutletAddr) (s t : State) : Prop :=
  t = { s with es := t.es, nu := t.nu } ∧
    t.esc n = { s.esc n with awaiting := none, failed := if a ∈ (s.esc n).failed then (s.esc n).failed else (s.esc n).failed ++ [a] } ∧
    (∀ m, m ≠ n → t.esc m = s.esc m) ∧ t.nu = (latchTenant .shedFailed n s).nu

/-- A restore has unmarked an outlet: its mark and its place in the shed order are gone and a tally has risen. -/
def Unmarked (n : Nat) (a : OutletAddr) (cursor : Option OutletAddr) (tally : Tallies → Tallies) (s t : State) : Prop :=
  t = { s with ot := { s.ot with outlets := t.ot.outlets }, es := t.es } ∧
    t.outlet (a.head * 48 + a.outlet) = { s.outlet (a.head * 48 + a.outlet) with shedMark := false } ∧
    (∀ j, j ≠ a.head * 48 + a.outlet → t.outlet j = s.outlet j) ∧
    t.esc n =
      { s.esc n with
        shedOrder := (s.esc n).shedOrder.filter (fun x => decide (x ≠ a)), tallies := (s.esc n).tallies.map tally, awaiting := none
        cursor := cursor } ∧
    ∀ m, m ≠ n → t.esc m = s.esc m

/-- An outlet of the shed list of a tenant: BOUND to it alone with priority 1 to 7. -/
def Sheddable (n : Nat) (o : Outlet) : Prop :=
  o.binding = .bound ∧ o.shares.map ShareEntry.tenant = [n] ∧ 1 ≤ o.priority ∧ o.priority ≤ 7

/-- The first outlet is shed before the second: the higher priority, then the lower bind sequence, then the lower address. -/
def ShedsBefore (x y : Nat × Outlet) : Prop :=
  y.2.priority < x.2.priority ∨
    x.2.priority = y.2.priority ∧ (x.2.bindSeq < y.2.bindSeq ∨ x.2.bindSeq = y.2.bindSeq ∧ x.1 ≤ y.1)

/-- The unit's condition causes that an acknowledgement names and whose condition holds. -/
def unitRelatched (causes : BitVec 16) (s : State) : BitVec 16 :=
  (if causes.getLsbD 0 && s.someHeadLost then 0x0001 else 0) ||| (if causes.getLsbD 1 && s.someFeedDown then 0x0002 else 0) |||
    (if causes.getLsbD 2 && s.someUnattributedDraw then 0x0004 else 0)

/-- The tenant's condition causes that an acknowledgement names and whose condition holds. -/
def tenantRelatched (n : Nat) (causes : BitVec 16) (s : State) : BitVec 16 :=
  (if causes.getLsbD 0 && (s.tenant n).demand.inBreach then 0x0001 else 0) |||
    (if causes.getLsbD 1 && (s.tenant n).burst.inBreach then 0x0002 else 0) |||
    (if causes.getLsbD 2 && (s.account n).lastIncomplete then 0x0004 else 0) |||
    (if causes.getLsbD 3 && (s.tenant n).allowanceHeld then 0x0008 else 0) |||
    (if causes.getLsbD 4 && decide ((s.tenant n).lifetimeA = 281474976710655 ∨ (s.tenant n).lifetimeB = 281474976710655) then 0x0010 else 0)

/-- A cause set once causes have been removed from it and others latched again. -/
def acknowledged (c : CauseSet) (causes again : BitVec 16) : CauseSet :=
  { c with latched := (c.latched &&& ~~~causes) ||| again, unreported := (c.unreported &&& ~~~causes) ||| again }

/-- The Notice Queue once the place of a source has been judged anew. -/
def requeued (source : Nat) (c : CauseSet) (q : List Nat) : List Nat :=
  if c.unreported &&& c.mask = 0 then q.filter (fun x => decide (x ≠ source)) else if source ∈ q then q else q ++ [source]

/-- NU once the mask of a tenant has been replaced: its place in the Notice Queue is judged anew. -/
def TenantMasked (n : Nat) (mask : BitVec 16) (s : State) (nu : NoticeUnit) : Prop :=
  nu = { s.nu with tenants := nu.tenants, queue := requeued n { s.causes n with mask := mask } s.nu.queue } ∧
    { s with nu := nu }.causes n = { s.causes n with mask := mask } ∧ ∀ m, m ≠ n → { s with nu := nu }.causes m = s.causes m

/-- The cause set of a source after a latch. -/
def latchedSet (i : Nat) (c : CauseSet) : CauseSet :=
  if c.latched.getLsbD i then c else { c with latched := c.latched ||| 1 <<< i, unreported := c.unreported ||| 1 <<< i }

/-- The Notice Queue after a latch for a source whose set was `c`. -/
def latchedQueue (source i : Nat) (c : CauseSet) (q : List Nat) : List Nat :=
  if c.latched.getLsbD i = false ∧ c.mask.getLsbD i = true ∧ source ∉ q then q ++ [source] else q

/-- The trunk is idle through the gap and no reply window is open. -/
def GapOver (p : TrunkPort) : Prop := p.sending = .nothing ∧ p.rx = none ∧ 2 ≤ p.idleTicks ∧ p.window = none

/-- A reply whose slot was filled in the window of its order, with no window of another order open. -/
def PromptNow (p : TrunkPort) : Prop := p.prompt = true ∧ ∀ w, p.window = some w → w.own = true

/-- An upstream frame: direction UP, address, kind, tag, length, payload, CRC-16. -/
def trunkBytes (addr : BitVec 4) (kind : Nat) (tag : Byte) (payload : List Byte) : List Byte :=
  [b1 (128 + 4 * addr.toNat), b1 kind, tag, b1 payload.length] ++ payload ++
    be 2 (crc16 ([b1 (128 + 4 * addr.toNat), b1 kind, tag, b1 payload.length] ++ payload)).toNat

/-- The codes of the statuses, of the outcomes of completions, of machine states, of stages and of forward flags (11.4). -/
def statusCode : Status → Nat
  | .done => 0
  | .accepted => 1
  | .busy => 2
  | .incorrectState => 3
  | .invalidParameter => 4
  | .locked => 5
  | .unknownOrder => 6

def outcomeCode : CompletionOutcome → Nat
  | .released => 1
  | .releasedWhileOff => 2
  | .stated => 3
  | .closed => 4
  | .abandoned => 5
  | .restored => 6
  | .partialRestore => 7

def machineCode : MachineState → Byte
  | .clear => 0
  | .pending => 1
  | .breach => 2
  | .easing => 3

def stageCode : Stage → Byte
  | .idle => 0
  | .armed => 1
  | .shedding => 2
  | .shedHold => 3
  | .restoring => 4

def recordFlagByte : RecordFlag → Byte
  | .normal => 0
  | .baseline => 1
  | .gap => 2
  | .discontinuity => 3
  | .unbound => 4

/-- A demand: kind, two values, period; zeros while FILLING. -/
def demandField (d : Option DemandValue) : List Byte :=
  match d with
  | none => [0, 0, 0, 0, 0, 0, 0, 0, 0]
  | some d => [match d.cls with | .pooled => 1 | .perFeed => 2] ++ be 3 d.value1 ++ be 3 d.value2 ++ be 2 d.period.toNat

/-- A log slot: kind, feed, outcome, start, duration, peak. -/
def logSlot (c : ClosedBreach) : List Byte :=
  [match c.kind with | .demand => 0#8 | .burst => 1#8] ++ [if c.feeds.a && c.feeds.b then 2#8 else if c.feeds.b then 1#8 else 0#8] ++
    [match c.outcome with | .cleared => 0#8 | .shed => 1#8 | .held => 2#8 | .reset => 3#8] ++ be 2 c.start.toNat ++ be 2 c.duration ++ be 3 c.peak

/-- The statement of a tenant, 103 bytes. -/
def statementBytes (x : Statement) : List Byte :=
  [b1 x.tenant] ++ be 2 x.period.toNat ++ [match x.state with | .vacant => 0#8 | .active => 1#8 | .held => 2#8 | .closing => 3#8] ++
    [match x.cls with | .pooled => 0#8 | .perFeed => 1#8] ++ be 3 x.capacity1 ++ be 3 x.capacity2 ++ be 6 x.lifetimeA ++ be 6 x.lifetimeB ++
    [b1 x.ringEntries] ++ be 7 x.ringSumA ++ be 7 x.ringSumB ++ [b1 x.ringIncomplete] ++ demandField x.lastDemand ++
    (match x.peak with | none => List.replicate 6 0#8 | some k => [1#8] ++ be 3 k.watts ++ be 2 k.period.toNat) ++
    [machineCode x.burstState, b1 x.burstCount, machineCode x.demandState, b1 x.demandCount, b1 x.breachLog.length] ++
    (x.breachLog.take 4).flatMap logSlot ++ List.replicate (40 - 10 * (x.breachLog.take 4).length) 0#8 ++ [stageCode x.stage] ++
    [match x.coveredFeed with | none => 0#8 | some .a => 1#8 | some .b => 2#8] ++ be 2 x.allowanceTail

/-- The bytes of a frame in hand; the tag of any but a completion is 0. -/
def frameBytes (addr : BitVec 4) (f : UpFrame) : List Byte :=
  match f with
  | .completion c =>
    trunkBytes addr 3 c.tag ([b1 c.code, b1 (outcomeCode c.outcome)] ++
      match c.body with
      | .release a => [b1 a.head, b1 a.outlet]
      | .statement x => statementBytes x
      | .tenant t => [b1 t]
      | .restore t k => [b1 t] ++ be 2 k.confirmed ++ be 2 k.alreadyOn ++ be 2 k.atLimit)
  | .notice n =>
    trunkBytes addr 4 0 ([b1 n.source] ++ be 2 n.period.toNat ++ be 2 n.latched.toNat ++ be 2 n.unreported.toNat ++
      [match n.resetCause with | none => 0#8 | some .powerOn => 1#8 | some .resetPin => 2#8 | some .orderFull => 3#8 | some .orderAccounts => 4#8])
  | .summary r =>
    trunkBytes addr 5 0 ([b1 r.tenant] ++ be 2 r.period.toNat ++ be 6 r.energyA ++ be 6 r.energyB ++ be 3 r.rateA ++ be 3 r.rateB ++
      demandField r.demand ++ [machineCode r.burstState, machineCode r.demandState, stageCode r.stage, flagOf r.incomplete])
  | .forward g part =>
    let entries := match part with | .whole => g.entries | .first => g.entries.take 24 | .second => g.entries.drop 24
    trunkBytes addr 6 0 ([b1 g.head] ++ be 2 g.stamp.toNat ++ [b1 ((if g.flags.a then 1 else 0) + if g.flags.b then 2 else 0)] ++
      [match part with | .whole => 0#8 | .first => 1#8 | .second => 2#8] ++ [b1 entries.length] ++
      entries.flatMap fun e =>
        [b1 e.outlet, switchByte e.switchState, recordFlagByte e.flag, b1 e.primary] ++ be 4 e.delta)

/-- The level of a line `bit` bit times after a frame has begun on it: each byte a start bit 0, its bits from the most significant on and a stop bit 1,
one byte after the other, and 1 past the last one. -/
def frameLevel (bytes : List Byte) (bit : Nat) : Bool :=
  match bytes[bit / 10]? with
  | none => true
  | some b => if bit % 10 = 0 then false else if bit % 10 = 9 then true else b.getLsbD (8 - bit % 10)

/-- A frame in hand has begun to be transmitted. -/
def started (f : UpFrame) (p : TrunkPort) : TrunkPort :=
  { p with inHand := some f, sending := .inHand, idleTicks := 0, lastSent := frameBytes p.unitAddr f }

end Sys2Proof.Stated

open Sys2Proof Sys2Proof.Machine Sys2Proof.Stated

/-! ### The queue of commands and the order path -/

/-- A step takes the command at the front of the queue and runs it on the state with the rest of the queue; on an empty queue the block idles,
which is the model's choice (log entry 2). -/
def Obligations.StepRunsTheFrontCommand : Prop :=
  (∀ (c : Instr) (rest : List Instr) (s : State), step { s with pending := c :: rest } = exec c { s with pending := rest }) ∧
  (∀ s : State, s.pending = [] → step s = .next s)

/-- Every command, in every state, answers a next state in which the queue of commands is as it was. -/
def Obligations.EveryCommandAnswersNext : Prop :=
  ∀ (c : Instr) (s : State), ∃ t, exec c s = .next t ∧ t.pending = s.pending

/-- How an order command meets the order path (log entry 4): with the path free it is the frame of the order, which takes the path; with the
path busy it is a frame that is discarded and opens its window alone; while TP transmits nothing is received. The broadcast orders that wait
for the owner's answer are handed over after it, in the order they arrived (R188). That they are handed over also after a FULL reset which an
earlier one makes is the model's choice (log entry 9), and so is what a broadcast HALT does to a round end, a close and a delivery (log entries
11, 24, 31), what an ACCOUNTS reset does to a delivery being taken (log entry 32) and what a reset does to a frame in transmission (log entry 34). -/
def Obligations.OrderCommandMeetsThePath : Prop :=
  ∀ (c : Instr) (s : State), isOrder c = true →
    (s.tp.sending = .nothing → s.tp.path = .free →
      exec c s = exec c { s with tp := heardOrder true (.atOwner c) s.tp }) ∧
    (s.tp.sending = .nothing → s.tp.path ≠ .free → s.tp.path ≠ .atOwner c →
      exec c s = .next { s with tp := heardOrder false s.tp.path s.tp }) ∧
    (s.tp.sending ≠ .nothing → s.tp.path ≠ .atOwner c → exec c s = .next s) ∧
    (s.tp.path = .atOwner c → ∃ t u, exec c { s with tp := { s.tp with broadcasts := [] } } = .next t ∧
      HandedInTurn s.tp.broadcasts t u ∧ exec c s = .next u)

/-! ### Resets -/

/-- The values after power-on with the straps low (log entry 3), the model's own fields included, and the record of every number; POWER_ON and
PIN_RESET give them with the straps sampled and the reset cause set, and the commands that wait stay. -/
def Obligations.PowerOnAndPinResetValues : Prop :=
  (State.reset =
    { ct :=
        { prescaler := 0, runState := .config, n := 0, countdown := none, collectingOpen := false, configured := false
          config :=
            { il := 1, voltA := 230, voltB := 230, staleLimit := 3, lostLimit := 10, restoreCount := 5, threshold := 0, forwardAll := false }
          expiriesDue := 0 }
      mlc :=
        { heads := [], phase := .idle, walkPos := 0, pollPos := 1, repollDue := none, wait := none, marks := []
          tally := { frames := 0, absentA := 0, absentB := 0 }, probePointer := 32, switchQueue := [], syncDue := none
          roundEndDue := false, lastSent := [] }
      ot := { outlets := [], bindCounter := 0, boundCount := 0 }
      oae := { accounts := [], unattributed := 0, deliveries := [], taking := none, closes := [] }
      fm := { a := { state := .present, count := 0 }, b := { state := .present, count := 0 } }
      tl := { tenants := [], count := 0 }
      es := { tenants := [] }
      nu := { unit := { latched := 0x0008, unreported := 0x0008, mask := 0x03FF }, tenants := [], queue := [0] }
      tp :=
        { rx := none, path := .free, slot := none, prompt := false, broadcasts := [], reset := none, window := none, idleTicks := 0
          sending := .nothing, inHand := none, completions := [], summaries := [], forwards := [], copies := [], dropCount := 0, lockMap := 0, unitAddr := 0
          service := false, resetCause := .powerOn, lastSent := [] }
      pending := [] } ∧
  (∀ a, State.reset.head a =
    { state := .absent, lastSeq := none, lastStamp := none, errorCount := 0, silence := 0, lastFlags := none }) ∧
  (∀ k, State.reset.outlet k =
    { binding := .unbound, shares := [], feed := .a, current := 63, priority := 0, bindSeq := 0, baseline := .noBaseline, lastCounter := 0
      lastStamp := 0, unattributedRate := 0, switchState := .unknown, discontinuities := 0, shedMark := false, completionOwed := none }) ∧
  (∀ t, State.reset.account t = { accA := 0, accB := 0, rateA := 0, rateB := 0, incomplete := false, lastIncomplete := false }) ∧
  (∀ t, State.reset.tenant t =
    { state := .vacant, stateBeforeClose := none, contract := none, pendingLimits := none, lifetimeA := 0, lifetimeB := 0
      bucket := { energyA := 0, energyB := 0, count := 0, incomplete := false }, ring := [], lastDemand := none, peak := none
      burst := { state := .clear, count := 0, breach := none }, demand := { state := .clear, count := 0, breach := none }
      breachLog := [], coveredFeed := none, allowanceTail := 0, allowanceHeld := false, lastSettled := none, slot := .empty }) ∧
  (∀ t, State.reset.esc t =
    { stage := .idle, countdown := none, shedOrder := [], awaiting := none, cursor := none, failed := [], tallies := none }) ∧
  (∀ t, State.reset.causes t = { latched := 0, unreported := 0, mask := 0x07FF })) ∧
  (∀ (uaddr : BitVec 4) (service : Bool) (s : State),
    exec (.powerOn uaddr service) s = .next
      { State.reset with
        tp := { State.reset.tp with unitAddr := uaddr, service := service, resetCause := .powerOn }
        pending := s.pending } ∧
    exec (.pinReset uaddr service) s = .next
      { State.reset with
        tp := { State.reset.tp with unitAddr := uaddr, service := service, resetCause := .resetPin }
        pending := s.pending })

/-- The reply to an accepted RESET-UNIT FULL ends, by FRAME_TRANSMIT_END or FULL_RESET: TP is done with the reply and the FULL values stand, with
what a FULL reset keeps; FULL_RESET changes nothing otherwise (log entries 1, 5). That a delivery OAE has begun goes too is the model's choice
(log entry 32). -/
def Obligations.FullResetReturnsTheFullValues : Prop :=
  ∀ s : State,
    (s.tp.sending = .reply → s.tp.reset = some .full →
      exec .frameTransmitEnd s = .next (fullValues { s with tp := replySent s.tp }) ∧
      exec .fullReset s = .next (fullValues { s with tp := replySent s.tp })) ∧
    ((s.tp.sending ≠ .reply ∨ s.tp.reset ≠ some .full) → exec .fullReset s = .next s)

/-- The reply to an accepted RESET-UNIT ACCOUNTS ends, by FRAME_TRANSMIT_END or ACCOUNTS_RESET: TP is done with the reply and the ACCOUNTS reset
is made; ACCOUNTS_RESET changes nothing otherwise (log entries 1, 5). The round goes on, but for a switch phase, whose queue is empty now (log
entry 14). A close in progress keeps the feed states it was handed (log entry 33). That a delivery OAE has begun stays begun is the model's choice
(log entry 32). -/
def Obligations.AccountsResetKeepsTheBindings : Prop :=
  ∀ s : State,
    (s.tp.sending = .reply → s.tp.reset = some .accounts → ∃ t, AccountsValues { s with tp := replySent s.tp } t ∧
      exec .frameTransmitEnd s = .next t ∧ exec .accountsReset s = .next t) ∧
    ((s.tp.sending ≠ .reply ∨ s.tp.reset ≠ some .accounts) → exec .accountsReset s = .next s)

/-- RESET-UNIT: the option, then the lock for FULL, then DONE; the reset waits for the end of the reply. -/
def Obligations.ResetUnitOrder : Prop :=
  ∀ (tag : Byte) (option : Nat) (s : State), AtOwner (.resetUnit tag option) s →
    (option ≠ 1 → option ≠ 2 → Refused (.resetUnit tag option) tag 0x02 .invalidParameter s) ∧
    (option = 1 → s.tp.lockMap ≠ 0 → s.tp.service = false → Refused (.resetUnit tag option) tag 0x02 .locked s) ∧
    (option = 1 → (s.tp.lockMap = 0 ∨ s.tp.service = true) →
      exec (.resetUnit tag option) s = .next { s with tp := replied tag 0x02 .done [] { s.tp with reset := some .full } }) ∧
    (option = 2 →
      exec (.resetUnit tag option) s = .next { s with tp := replied tag 0x02 .done [] { s.tp with reset := some .accounts } })

/-- A broadcast order at the end of its frame closes the reply window in progress. With no unicast order with its owner it acts at once, as the
order of its code does where it would be accepted, and is discarded where not; otherwise it waits behind those that arrived before it. While
TP transmits none is received (log entry 9). A HALT that meets a delivery, a round end or a close: log entries 11, 24, 31; a reset that meets a
delivery being taken: log entry 32. -/
def Obligations.BroadcastOrdersActOrWait : Prop :=
  ∀ (c : Instr) (s : State), (c = .broadcastHalt ∨ ∃ o, c = .broadcastResetUnit o) →
    (s.tp.sending ≠ .nothing → exec c s = .next s) ∧
    (s.tp.sending = .nothing → ¬ SomeAtOwner s → ∃ t, Handed c (heardBroadcast s) t ∧ exec c s = .next t) ∧
    (s.tp.sending = .nothing → SomeAtOwner s →
      exec c s = .next { heardBroadcast s with tp := { (heardBroadcast s).tp with broadcasts := s.tp.broadcasts ++ [c] } })

/-! ### The cadence -/

/-- TICK: the countdown in RUNNING with the expiry it reaches, the open reply wait, the reply window, the idle gap; nothing else. -/
def Obligations.TickCountsInEveryBlock : Prop :=
  ∀ s : State, ∃ t, exec .tick s = .next t ∧ t = { s with ct := t.ct, mlc := t.mlc, tp := t.tp } ∧
    t.ct = { s.ct with prescaler := 0, countdown := t.ct.countdown, expiriesDue := t.ct.expiriesDue } ∧
    (∀ c, s.ct.runState = .running → s.ct.countdown = some c → 1 < c →
      t.ct.countdown = some (c - 1) ∧ t.ct.expiriesDue = s.ct.expiriesDue) ∧
    (∀ c, s.ct.runState = .running → s.ct.countdown = some c → c ≤ 1 →
      t.ct.countdown = some (s.ct.config.il * 100) ∧ t.ct.expiriesDue = s.ct.expiriesDue + 1) ∧
    ((s.ct.runState ≠ .running ∨ s.ct.countdown = none) →
      t.ct.countdown = s.ct.countdown ∧ t.ct.expiriesDue = s.ct.expiriesDue) ∧
    t.mlc = { s.mlc with wait := t.mlc.wait } ∧
    (s.mlc.wait = none → t.mlc.wait = none) ∧
    (∀ w, s.mlc.wait = some w → t.mlc.wait = some { w with ticks := min 2 (w.ticks + 1) }) ∧
    t.tp = { s.tp with window := t.tp.window, idleTicks := t.tp.idleTicks } ∧
    (s.tp.window = none → t.tp.window = none) ∧
    (∀ w, s.tp.window = some w → t.tp.window = some { w with ticks := min 5 (w.ticks + 1) }) ∧
    (s.tp.sending = .nothing → s.tp.rx = none → t.tp.idleTicks = min 2 (s.tp.idleTicks + 1)) ∧
    ((s.tp.sending ≠ .nothing ∨ s.tp.rx ≠ none) → t.tp.idleTicks = s.tp.idleTicks)

/-- CADENCE_EXPIRY: the close of period N − 1 when one is open, before which the delivery being taken is taken to its end, N, the SYNC and the end
of the round; without an expiry reached by a tick in RUNNING nothing happens (log entries 1, 5). -/
def Obligations.CadenceExpiryAdvancesThePeriod : Prop :=
  ∀ s : State,
    (s.ct.runState = .running → 0 < s.ct.expiriesDue → ∃ u,
      (s.ct.collectingOpen = true → DeliveryEnded s u) ∧ (s.ct.collectingOpen = false → u = s) ∧
      exec .cadenceExpiry s = .next
        { u with
          ct := { s.ct with n := s.ct.n + 1, collectingOpen := true, expiriesDue := s.ct.expiriesDue - 1 }
          oae := { u.oae with closes := if s.ct.collectingOpen then s.oae.closes ++ [{ period := s.ct.n - 1, feeds := none }] else s.oae.closes }
          mlc := { s.mlc with syncDue := some (s.ct.n + 1), roundEndDue := true } }) ∧
    ((s.ct.runState ≠ .running ∨ s.ct.expiriesDue = 0) → exec .cadenceExpiry s = .next s)

/-- CONFIGURE-UNIT: ranges, then run state, then the whole record and the configured flag. -/
def Obligations.ConfigureUnitReplacesTheRecord : Prop :=
  ∀ (tag : Byte) (f : UnitFields) (s : State), AtOwner (.configureUnit tag f) s →
    (¬ ConfigRanges f → Refused (.configureUnit tag f) tag 0x10 .invalidParameter s) ∧
    (ConfigRanges f → s.ct.runState = .running → Refused (.configureUnit tag f) tag 0x10 .incorrectState s) ∧
    (ConfigRanges f → s.ct.runState ≠ .running →
      exec (.configureUnit tag f) s = .next
        { s with
          ct := { s.ct with
            configured := true
            config :=
              { il := f.il, voltA := f.voltA, voltB := f.voltB, staleLimit := f.staleLimit, lostLimit := f.lostLimit
                restoreCount := f.restoreCount, threshold := f.threshold, forwardAll := decide (f.forwardMode = 1) } }
          tp := replied tag 0x10 .done [] s.tp })

/-- START: refused in RUNNING or unconfigured; from CONFIG period 0; from HALTED period N + 1 with every baseline NO_BASELINE. -/
def Obligations.StartBeginsOrResumesTheCadence : Prop :=
  ∀ (tag : Byte) (s : State), AtOwner (.start tag) s →
    ((s.ct.runState = .running ∨ s.ct.configured = false) → Refused (.start tag) tag 0x11 .incorrectState s) ∧
    (s.ct.runState = .config → s.ct.configured = true →
      exec (.start tag) s = .next
        { s with
          ct := { s.ct with n := 0, collectingOpen := false, countdown := some (s.ct.config.il * 100), runState := .running, expiriesDue := 0 }
          mlc := { s.mlc with syncDue := some 0 }
          tp := replied tag 0x11 .done [0, 0] s.tp }) ∧
    (s.ct.runState = .halted → s.ct.configured = true → ∃ t, exec (.start tag) s = .next t ∧
      t =
        { s with
          ct :=
            { s.ct with
              n := s.ct.n + 1, collectingOpen := false, countdown := some (s.ct.config.il * 100), runState := .running, expiriesDue := 0 }
          mlc := { s.mlc with syncDue := some (s.ct.n + 1) }
          ot := { s.ot with outlets := t.ot.outlets }
          tp := replied tag 0x11 .done (be 2 (s.ct.n + 1).toNat) s.tp } ∧
      ∀ k, t.outlet k = { s.outlet k with baseline := .noBaseline })

/-- HALT, by its own order and by a broadcast: refused or without effect outside RUNNING; in RUNNING the cadence is halted, the round and the
collecting period are abandoned. The state halted is the one after ROUND_END and a CLOSE for each close that waits (log entry 11) and after the
rest of a delivery being taken (log entry 24), whose energy in the unattributed accumulator stays there (log entry 31). -/
def Obligations.HaltStopsTheCadence : Prop :=
  (∀ (tag : Byte) (s : State), AtOwner (.halt tag) s →
    (s.ct.runState ≠ .running → Refused (.halt tag) tag 0x12 .incorrectState s) ∧
    (s.ct.runState = .running → ∃ t, Halted s t ∧
      exec (.halt tag) s = .next { t with tp := replied tag 0x12 .done (be 2 s.ct.n.toNat) t.tp })) ∧
  (∀ s : State, s.tp.sending = .nothing → ¬ SomeAtOwner s →
    (s.ct.runState ≠ .running → exec .broadcastHalt s = .next (heardBroadcast s)) ∧
    (s.ct.runState = .running → ∃ t, Halted (heardBroadcast s) t ∧ exec .broadcastHalt s = .next t))

/-! ### The meter link -/

/-- SYNC: once the ended round has ended, the frame of the signalled number opens a round with nothing reached and an empty tally; the switch
phase lasts while an entry's head is PRESENT (log entry 14). Nothing happens otherwise (log entry 1). -/
def Obligations.SyncBeginsTheRound : Prop :=
  ∀ s : State,
    (∀ n, s.mlc.syncDue = some n → s.mlc.roundEndDue = false → ∃ t, exec .sync s = .next t ∧ t = { s with mlc := t.mlc } ∧
      t.mlc =
        { s.mlc with
          phase := t.mlc.phase, walkPos := 0, pollPos := 1, repollDue := none, wait := none, marks := []
          tally := { frames := 0, absentA := 0, absentB := 0 }, syncDue := none, lastSent := t.mlc.lastSent } ∧
      t.mlc.lastSent = [0x00, 0x01] ++ be 2 n.toNat ++ [crc8 ([0x00, 0x01] ++ be 2 n.toNat)] ∧
      (t.mlc.phase = .switch ↔ ∃ e ∈ s.mlc.switchQueue, (s.head e.addr.head).state = .present) ∧
      (t.mlc.phase = .poll ↔ (∀ e ∈ s.mlc.switchQueue, (s.head e.addr.head).state ≠ .present) ∧
        ∃ a, 1 ≤ a ∧ a ≤ 32 ∧ (s.head a).state ≠ .absent) ∧
      (t.mlc.phase ≠ .switch → WalkFrom 1 t.mlc) ∧ t.mlc.phase ≠ .idle) ∧
    ((s.mlc.syncDue = none ∨ s.mlc.roundEndDue = true) → exec .sync s = .next s)

/-- SWITCH: the first entry at or past the walk whose head is PRESENT is sent and leaves the queue; the others keep their places. Add and
withdraw requests: MERGED, REFUSED at 16 entries, TAKEN; a withdrawal takes the tenant's OFF entries alone. That a phase with nothing left to
send ends at once is the model's choice (log entry 14). -/
def Obligations.SwitchQueueIsServedInOrder : Prop :=
  (∀ (s : State) (passed ahead : List SwitchEntry) (e : SwitchEntry) (rest : List SwitchEntry),
    s.mlc.phase = .switch → s.mlc.wait = none → s.mlc.roundEndDue = false → s.mlc.switchQueue = passed ++ ahead ++ e :: rest →
    s.mlc.walkPos = passed.length → (∀ x ∈ ahead, (s.head x.addr.head).state ≠ .present) → (s.head e.addr.head).state = .present →
    ∃ t, exec .switch s = .next t ∧ t = { s with mlc := t.mlc } ∧
      t.mlc =
        { s.mlc with
          switchQueue := passed ++ ahead ++ rest, walkPos := (passed ++ ahead).length, phase := t.mlc.phase
          pollPos := t.mlc.pollPos
          lastSent := [b1 e.addr.head, 0x03, b1 e.addr.outlet, if e.direction = .on then 1 else 0] ++
            [crc8 [b1 e.addr.head, 0x03, b1 e.addr.outlet, if e.direction = .on then 1 else 0]] } ∧
      (t.mlc.phase = .switch ↔ ∃ x ∈ rest, (s.head x.addr.head).state = .present) ∧
      (t.mlc.phase = .switch → t.mlc.pollPos = s.mlc.pollPos) ∧
      (t.mlc.phase ≠ .switch → t.mlc.pollPos = 1 ∧ (s.mlc.repollDue = none → WalkFrom 1 t.mlc))) ∧
  (∀ s : State, (s.mlc.phase ≠ .switch ∨ s.mlc.wait ≠ none ∨ s.mlc.roundEndDue = true) → exec .switch s = .next s) ∧
  (∀ (e : SwitchEntry) (s : State),
    ((∃ x ∈ s.mlc.switchQueue, x.addr = e.addr ∧ x.direction = e.direction) →
      addAnswer s.mlc.switchQueue e = .merged ∧ addRequest e s = s) ∧
    ((∀ x ∈ s.mlc.switchQueue, ¬ (x.addr = e.addr ∧ x.direction = e.direction)) → 16 ≤ s.mlc.switchQueue.length →
      addAnswer s.mlc.switchQueue e = .refused ∧ addRequest e s = s) ∧
    ((∀ x ∈ s.mlc.switchQueue, ¬ (x.addr = e.addr ∧ x.direction = e.direction)) → s.mlc.switchQueue.length < 16 →
      addAnswer s.mlc.switchQueue e = .taken ∧
      addRequest e s = { s with mlc := { s.mlc with switchQueue := s.mlc.switchQueue ++ [e] } })) ∧
  (∀ (n : Nat) (s : State),
    withdrawRequest n s = { s with mlc := (withdrawRequest n s).mlc } ∧ OffWithdrawn n s.mlc (withdrawRequest n s).mlc)

/-- POLL: the re-poll that is due, or else the lowest address at or past the walk that is not ABSENT and not answered, is polled and a reply
wait opens. PROBE: the next ABSENT address past the probe pointer, wrapping from 32 to 1, is polled once and the pointer takes it. ML_DIR is
high for the ten bit times of each byte of the last frame and low from its end on, so in the reply wait, and the level MLC drives there is
the frame's (log entry 7). -/
def Obligations.PollAndProbeOpenAReplyWait : Prop :=
  (∀ s : State, s.mlc.phase = .poll → s.mlc.wait = none → s.mlc.roundEndDue = false →
    (∀ a, s.mlc.repollDue = some a →
      exec .poll s = .next
        { s with
          mlc := { s.mlc with
            wait := some { addr := a, kind := .repoll, ticks := 0 }, repollDue := none, lastSent := [b1 a, 0x02, crc8 [b1 a, 0x02]] } }) ∧
    (∀ a, s.mlc.repollDue = none → s.mlc.pollPos ≤ a → a ≤ 32 → ToPoll s a → (∀ b, s.mlc.pollPos ≤ b → b < a → ¬ ToPoll s b) →
      exec .poll s = .next
        { s with
          mlc := { s.mlc with
            wait := some { addr := a, kind := .first, ticks := 0 }, pollPos := a, lastSent := [b1 a, 0x02, crc8 [b1 a, 0x02]] } })) ∧
  (∀ s : State, (s.mlc.phase ≠ .poll ∨ s.mlc.wait ≠ none ∨ s.mlc.roundEndDue = true) → exec .poll s = .next s) ∧
  (∀ (s : State) (a : Nat), s.mlc.phase = .probe → s.mlc.wait = none → s.mlc.roundEndDue = false →
    1 ≤ a → a ≤ 32 → (s.head a).state = .absent →
    (s.mlc.probePointer < a ∧ (∀ b, s.mlc.probePointer < b → b < a → (s.head b).state ≠ .absent) ∨
      a ≤ s.mlc.probePointer ∧ (∀ b, s.mlc.probePointer < b → b ≤ 32 → (s.head b).state ≠ .absent) ∧
        (∀ b, 1 ≤ b → b < a → (s.head b).state ≠ .absent)) →
      exec .probe s = .next
        { s with
          mlc := { s.mlc with
            wait := some { addr := a, kind := .probe, ticks := 0 }, probePointer := a
            lastSent := [b1 a, 0x02, crc8 [b1 a, 0x02]] } }) ∧
  (∀ s : State, (s.mlc.phase ≠ .probe ∨ s.mlc.wait ≠ none ∨ s.mlc.roundEndDue = true) → exec .probe s = .next s) ∧
  (∀ (s : State) (bit : Nat), (s.mlDir bit = true ↔ bit < 10 * s.mlc.lastSent.length) ∧ s.mlLevel bit = frameLevel s.mlc.lastSent bit)

/-- REPLY_WAIT_CLOSE: at the second tick the poll ends not answered: a miss, but not at a probe; before it, and without a wait, nothing
happens (log entry 1). The walk moves to the next higher address; the end of its phase is log entry 14. -/
def Obligations.ReplyWaitCloseEndsThePollNotAnswered : Prop :=
  ∀ s : State,
    (∀ w, s.mlc.wait = some w → 2 ≤ w.ticks → ∃ t, exec .replyWaitClose s = .next t ∧ NotAnswered w s t) ∧
    (∀ w, s.mlc.wait = some w → w.ticks < 2 → exec .replyWaitClose s = .next s) ∧
    (s.mlc.wait = none → exec .replyWaitClose s = .next s)

/-- A reply frame that is not accepted, by the first of the four checks that fails; a frame without a reply wait is LINK_FAULT alone. Two clauses
are the model's choice: a frame whose reception ran at a cadence expiry is discarded (log entry 6), and STRAY_FRAME with a reply wait open
changes nothing (log entry 1); the end of the phase after a poll that ends is log entry 14. -/
def Obligations.ReplyFrameFailsTheFirstCheckThatFails : Prop :=
  (∀ (first : Character) (rest : List Character) (s : State), s.mlc.wait = none →
    exec (.replyFrame first rest) s = .next (latchUnit .linkFault s) ∧ exec .strayFrame s = .next (latchUnit .linkFault s)) ∧
  (∀ (first : Character) (rest : List Character) (s : State), s.mlc.wait ≠ none → s.mlc.roundEndDue = true →
    exec (.replyFrame first rest) s = .next s) ∧
  (∀ s : State, s.mlc.wait ≠ none → exec .strayFrame s = .next s) ∧
  (∀ (first : Character) (rest chars : List Character) (w : ReplyWait) (s : State), chars = first :: rest →
    s.mlc.wait = some w → s.mlc.roundEndDue = false →
    ¬ FrameSound (bytesOf chars) (anyFramingError chars) →
    (w.kind = .first → ∃ t, exec (.replyFrame first rest) s = .next t ∧
      t = { s with mlc := { s.mlc with heads := t.mlc.heads, wait := none, repollDue := some w.addr } } ∧
      t.head w.addr = { s.head w.addr with errorCount := min 255 ((s.head w.addr).errorCount + 1) } ∧
      ∀ a, a ≠ w.addr → t.head a = s.head a) ∧
    (w.kind ≠ .first → ∃ t, exec (.replyFrame first rest) s = .next t ∧ NotAnswered w (countError w.addr s) t)) ∧
  (∀ (first : Character) (rest chars : List Character) (src seq s1 s0 fl cnt : Byte) (body : List Byte) (w : ReplyWait) (s : State),
    chars = first :: rest → s.mlc.wait = some w →
    s.mlc.roundEndDue = false → bytesOf chars = src :: seq :: s1 :: s0 :: fl :: cnt :: body →
    FrameSound (bytesOf chars) (anyFramingError chars) →
    (src.toNat ≠ w.addr → ∃ t, exec (.replyFrame first rest) s = .next t ∧
      NotAnswered w (latchUnit .linkFault s) t) ∧
    (src.toNat = w.addr → (s.head w.addr).lastSeq = some seq → w.kind ≠ .probe →
      ∃ t, exec (.replyFrame first rest) s = .next t ∧
      t = { s with mlc := t.mlc } ∧
      t.mlc =
        { s.mlc with
          heads := t.mlc.heads, marks := t.mlc.marks, phase := t.mlc.phase, wait := none, repollDue := none, pollPos := t.mlc.pollPos } ∧
      t.head w.addr = { s.head w.addr with silence := 0, state := .present } ∧ (∀ a, a ≠ w.addr → t.head a = s.head a) ∧
      t.mark w.addr = .answered ∧ (∀ a, a ≠ w.addr → t.mark a = s.mark a) ∧
      (s.mlc.phase = .poll → WalkFrom (w.addr + 1) t.mlc)) ∧
    (src.toNat = w.addr → (s.head w.addr).lastSeq ≠ some seq → ¬ (cnt.toNat ≤ 48 ∧ body.length = 1 + 6 * cnt.toNat) →
      ∃ t, exec (.replyFrame first rest) s = .next t ∧
        NotAnswered w (countError w.addr s) t))

/-- A reply frame that passes the four checks: the Head Table entry, the tally, the delivery and the copy with the records of outlets 0 to
47, HEAD_JOINED at a probe, the walk past a polled address; the rest of MLC stays. That the tally counts every accepted frame, that of an address already answered in the round among them, is the
model's choice (log entry 25); the end of the phase after the poll is log entry 14. -/
def Obligations.ReplyFrameAccepted : Prop :=
  ∀ (first : Character) (rest chars : List Character) (src seq s1 s0 fl cnt : Byte) (body : List Byte) (w : ReplyWait) (s : State),
    chars = first :: rest → s.mlc.wait = some w →
    s.mlc.roundEndDue = false → bytesOf chars = src :: seq :: s1 :: s0 :: fl :: cnt :: body →
    FrameSound (bytesOf chars) (anyFramingError chars) → src.toNat = w.addr → (s.head w.addr).lastSeq ≠ some seq →
    cnt.toNat ≤ 48 → body.length = 1 + 6 * cnt.toNat →
    ∃ t, exec (.replyFrame first rest) s = .next t ∧
      t = { s with mlc := t.mlc, oae := t.oae, nu := t.nu, tp := t.tp } ∧
      t.head w.addr =
        { s.head w.addr with
          state := .present, silence := 0, lastSeq := some seq, lastStamp := some (s1 ++ s0)
          lastFlags := some { a := fl.getLsbD 0, b := fl.getLsbD 1 } } ∧
      (∀ a, a ≠ w.addr → t.head a = s.head a) ∧ t.mark w.addr = .answered ∧ (∀ a, a ≠ w.addr → t.mark a = s.mark a) ∧
      t.mlc.tally =
        { frames := s.mlc.tally.frames + 1
          absentA := s.mlc.tally.absentA + (if fl.getLsbD 0 then 0 else 1)
          absentB := s.mlc.tally.absentB + (if fl.getLsbD 1 then 0 else 1) } ∧
      t.mlc =
        { s.mlc with
          heads := t.mlc.heads, marks := t.mlc.marks, tally := t.mlc.tally, phase := t.mlc.phase, wait := none
          repollDue := t.mlc.repollDue, pollPos := t.mlc.pollPos } ∧
      (w.kind = .probe → t.mlc.phase = .complete ∧ t.mlc.repollDue = s.mlc.repollDue ∧ t.mlc.pollPos = s.mlc.pollPos ∧
        t.nu = (latchUnit .headJoined s).nu) ∧
      (w.kind ≠ .probe → t.nu = s.nu ∧ t.mlc.repollDue = none ∧ (s.mlc.phase = .poll → WalkFrom (w.addr + 1) t.mlc)) ∧
      t.oae =
        { s.oae with
          deliveries := s.oae.deliveries ++
            [{ head := w.addr, stamp := s1 ++ s0, records := (parseRecords cnt.toNat body).filter fun r => decide (r.outlet < 48) }] } ∧
      t.tp =
        { s.tp with
          copies := s.tp.copies ++
            [{ head := w.addr, stamp := s1 ++ s0, flags := { a := fl.getLsbD 0, b := fl.getLsbD 1 }
               records := (parseRecords cnt.toNat body).filter fun r => decide (r.outlet < 48) }] }

/-- ROUND_END: the addresses not reached and the poll in progress are missed, the wait is closed, and FM judges the round's tally in that state
and hands OAE its two feed states, which every close that waited for the judgment carries; without a cadence expiry that waits nothing happens
(log entry 1). -/
def Obligations.RoundEndCountsMissesAndJudgesTheTally : Prop :=
  ∀ s : State,
    (s.mlc.roundEndDue = true → ∃ u t, exec .roundEnd s = .next t ∧ t = { s with mlc := t.mlc, oae := t.oae, fm := t.fm, nu := t.nu } ∧
      u = { s with mlc := t.mlc, nu := u.nu } ∧ t = { judgeTally s.mlc.tally u with oae := t.oae } ∧
      t.oae =
        { s.oae with
          closes := s.oae.closes.map fun w => { w with feeds := some (w.feeds.getD { a := t.fm.a.state, b := t.fm.b.state }) } } ∧
      ((∃ a, MissedAtEnd s a ∧ (t.head a).state = .lost ∧ (s.head a).state ≠ .lost) → u.nu = (latchUnit .headLost s).nu) ∧
      ((∀ a, MissedAtEnd s a → (t.head a).state = .lost → (s.head a).state = .lost) → u.nu = s.nu) ∧
      t.mlc =
        { s.mlc with
          heads := t.mlc.heads, marks := t.mlc.marks, phase := .idle, repollDue := none, wait := none, roundEndDue := false
          tally := { frames := 0, absentA := 0, absentB := 0 } } ∧
      (∀ a, MissedAtEnd s a → t.head a = missed s.ct.config.lostLimit (s.head a) ∧ t.mark a = .missed) ∧
      (∀ a, ¬ MissedAtEnd s a → t.head a = s.head a ∧ t.mark a = s.mark a) ∧
      t.fm =
        { a := judgeFeed s.ct.config.restoreCount s.fm.a (feedVerdict s.mlc.tally.frames s.mlc.tally.absentA)
          b := judgeFeed s.ct.config.restoreCount s.fm.b (feedVerdict s.mlc.tally.frames s.mlc.tally.absentB) } ∧
      ((∀ a, MissedAtEnd s a → (t.head a).state = .lost → (s.head a).state = .lost) → t.fm.a.state = s.fm.a.state →
        t.fm.b.state = s.fm.b.state → t.nu = s.nu) ∧
      ((∃ a, MissedAtEnd s a ∧ (t.head a).state = .lost ∧ (s.head a).state ≠ .lost) → t.nu.unit.latched.getLsbD 0 = true)) ∧
    (s.mlc.roundEndDue = false → exec .roundEnd s = .next s)

/-- FORGET-HEAD: a delivery of the head that is being taken is taken to its end first; then the entry, the waiting deliveries and copies, the
baselines of the head's outlets, its Switch Queue entries; an exchange with the address ends without a miss and the walk moves on. The result is
the former entry. That a phase left with nothing to do ends at once is the model's reading (log entry 14). -/
def Obligations.ForgetHeadClearsTheEntry : Prop :=
  ∀ (tag : Byte) (h : Nat) (s : State), AtOwner (.forgetHead tag h) s →
    (¬ (1 ≤ h ∧ h ≤ 32) → Refused (.forgetHead tag h) tag 0x20 .invalidParameter s) ∧
    (1 ≤ h → h ≤ 32 → ∃ u t, exec (.forgetHead tag h) s = .next t ∧
      ((∃ k, s.oae.taking = some k ∧ k.head = h) → DeliveryEnded s u) ∧ ((∀ k, s.oae.taking = some k → k.head ≠ h) → u = s) ∧
      t = { u with mlc := t.mlc, ot := t.ot, oae := t.oae, tp := t.tp } ∧
      t.tp =
        replied tag 0x20 .done
          ([match (s.head h).state with | .absent => 0#8 | .present => 1#8 | .silent => 2#8 | .lost => 3#8] ++
            [b1 (s.head h).errorCount, b1 (s.head h).silence] ++
            (match (s.head h).lastStamp with | none => [0#8, 0#8, 0#8] | some p => [1#8] ++ be 2 p.toNat) ++
            [match (s.head h).lastFlags with | none => 0#8 | some f => b1 ((if f.a then 1 else 0) + if f.b then 2 else 0)])
          { u.tp with copies := u.tp.copies.filter fun c => decide (c.head ≠ h) } ∧
      t.oae = { u.oae with deliveries := s.oae.deliveries.filter fun d => decide (d.head ≠ h) } ∧
      t.head h = { state := .absent, lastSeq := none, lastStamp := none, errorCount := 0, silence := 0, lastFlags := none } ∧
      (∀ a, a ≠ h → t.head a = s.head a) ∧
      t.ot = { s.ot with outlets := t.ot.outlets } ∧
      (∀ k, k / 48 = h → t.outlet k = { u.outlet k with baseline := .noBaseline }) ∧
      (∀ k, k / 48 ≠ h → t.outlet k = u.outlet k) ∧
      t.mlc.switchQueue = s.mlc.switchQueue.filter (fun e => decide (e.addr.head ≠ h)) ∧
      t.mlc.marks = s.mlc.marks ∧ t.mlc.tally = s.mlc.tally ∧ t.mlc.probePointer = s.mlc.probePointer ∧ t.mlc.syncDue = s.mlc.syncDue ∧
      t.mlc.roundEndDue = s.mlc.roundEndDue ∧ t.mlc.lastSent = s.mlc.lastSent ∧
      (∀ w, s.mlc.wait = some w → w.addr = h → t.mlc.wait = none ∧ (w.kind = .probe → t.mlc.phase = .complete) ∧
        (w.kind ≠ .probe → t.mlc.repollDue = none ∧ (s.mlc.phase = .poll → WalkFrom (h + 1) t.mlc))) ∧
      (∀ w, s.mlc.wait = some w → w.addr ≠ h → t.mlc.wait = some w ∧ t.mlc.repollDue = s.mlc.repollDue ∧
        (s.mlc.phase ≠ .switch → t.mlc.phase = s.mlc.phase ∧ t.mlc.pollPos = s.mlc.pollPos)) ∧
      (s.mlc.wait = none → t.mlc.wait = none ∧
        (s.mlc.repollDue = some h → t.mlc.repollDue = none ∧ (s.mlc.phase = .poll → WalkFrom (h + 1) t.mlc)) ∧
        (s.mlc.repollDue ≠ some h → t.mlc.repollDue = s.mlc.repollDue ∧
          (s.mlc.phase = .poll → s.mlc.repollDue = none → WalkFrom s.mlc.pollPos t.mlc) ∧
          (s.mlc.phase = .poll → s.mlc.repollDue ≠ none → t.mlc.phase = .poll ∧ t.mlc.pollPos = s.mlc.pollPos) ∧
          (s.mlc.phase = .idle ∨ s.mlc.phase = .probe ∨ s.mlc.phase = .complete →
            t.mlc.phase = s.mlc.phase ∧ t.mlc.pollPos = s.mlc.pollPos) ∧
          (s.mlc.phase = .switch → t.mlc.phase ≠ .switch → t.mlc.pollPos = 1 ∧ (s.mlc.repollDue = none → WalkFrom 1 t.mlc)) ∧
          (s.mlc.phase = .switch → (t.mlc.phase = .switch ↔
            ∃ e ∈ t.mlc.switchQueue.drop t.mlc.walkPos, (t.head e.addr.head).state = .present)))) ∧
      t.mlc.walkPos = ((s.mlc.switchQueue.take s.mlc.walkPos).filter fun e => decide (e.addr.head ≠ h)).length)

/-! ### The Outlet Table -/

/-- BIND-OUTLET: ranges, lock, state, then the binding group, the bind counter and the count of BOUND records. -/
def Obligations.BindOutletBindsAtOnce : Prop :=
  ∀ (tag : Byte) (f : BindFields) (s : State), AtOwner (.bindOutlet tag f) s →
    (¬ BindRanges f → Refused (.bindOutlet tag f) tag 0x30 .invalidParameter s) ∧
    (BindRanges f → (∃ e ∈ f.entries, GroupLocked s e.1) → Refused (.bindOutlet tag f) tag 0x30 .locked s) ∧
    (BindRanges f → (∀ e ∈ f.entries, ¬ GroupLocked s e.1) →
      ((s.outlet (f.head * 48 + f.outlet)).binding ≠ .unbound ∨
        ∃ e ∈ f.entries, (s.tenant e.1).state = .vacant ∨ (s.tenant e.1).state = .closing) →
      Refused (.bindOutlet tag f) tag 0x30 .incorrectState s) ∧
    (BindRanges f → (∀ e ∈ f.entries, ¬ GroupLocked s e.1) → (s.outlet (f.head * 48 + f.outlet)).binding = .unbound →
      (∀ e ∈ f.entries, (s.tenant e.1).state = .active ∨ (s.tenant e.1).state = .held) →
      ∃ t, exec (.bindOutlet tag f) s = .next t ∧
        t =
          { s with
            ot := { s.ot with
              outlets := t.ot.outlets, bindCounter := min 4294967295 (s.ot.bindCounter + 1), boundCount := s.ot.boundCount + 1 }
            tp := replied tag 0x30 .done (be 4 (min 4294967295 (s.ot.bindCounter + 1))) s.tp } ∧
        t.outlet (f.head * 48 + f.outlet) =
          { s.outlet (f.head * 48 + f.outlet) with
            binding := .bound, shares := f.entries.map fun e => { tenant := e.1, share := e.2, rate := 0 }
            feed := if f.feed = 0 then .a else .b
            current := f.current, priority := f.priority, bindSeq := min 4294967295 (s.ot.bindCounter + 1), unattributedRate := 0 } ∧
        ∀ k, k ≠ f.head * 48 + f.outlet → t.outlet k = s.outlet k)

/-- ALTER-OUTLET: ranges, lock, state, then the rated current and the shed priority alone, with their former values as the result. -/
def Obligations.AlterOutletChangesRatingAndPriority : Prop :=
  ∀ (tag : Byte) (h o i p : Nat) (s : State), AtOwner (.alterOutlet tag h o i p) s →
    (¬ (IsOutlet h o ∧ 1 ≤ i ∧ i ≤ 63 ∧ p ≤ 7 ∧ (p = 0 ∨ (s.outlet (h * 48 + o)).shares.length ≤ 1)) →
      Refused (.alterOutlet tag h o i p) tag 0x31 .invalidParameter s) ∧
    (IsOutlet h o → 1 ≤ i → i ≤ 63 → p ≤ 7 → (p = 0 ∨ (s.outlet (h * 48 + o)).shares.length ≤ 1) →
      (SomeLocked s (s.outlet (h * 48 + o)) → Refused (.alterOutlet tag h o i p) tag 0x31 .locked s) ∧
      (¬ SomeLocked s (s.outlet (h * 48 + o)) → (s.outlet (h * 48 + o)).binding ≠ .bound →
        Refused (.alterOutlet tag h o i p) tag 0x31 .incorrectState s) ∧
      (¬ SomeLocked s (s.outlet (h * 48 + o)) → (s.outlet (h * 48 + o)).binding = .bound → ∃ t,
        OneOutlet (h * 48 + o) { s.outlet (h * 48 + o) with current := i, priority := p } s t ∧
        exec (.alterOutlet tag h o i p) s = .next
          { t with
            tp := replied tag 0x31 .done (be 1 (s.outlet (h * 48 + o)).current ++ be 1 (s.outlet (h * 48 + o)).priority) s.tp }))

/-- RELEASE-OUTLET: range, lock, state, then RELEASING with the completion owed, and the outlet is no longer counted as BOUND. READ-OUTLET: the
whole record, byte by byte; nothing else changes. Of the last byte, the tag of the completion owed, nothing is said where none is owed. A
number is sent in bytes from the most significant on. -/
def Obligations.ReleaseAndReadOutlet : Prop :=
  (∀ (tag : Byte) (h o : Nat) (s : State), AtOwner (.releaseOutlet tag h o) s →
    (¬ IsOutlet h o → Refused (.releaseOutlet tag h o) tag 0x32 .invalidParameter s) ∧
    (IsOutlet h o → SomeLocked s (s.outlet (h * 48 + o)) → Refused (.releaseOutlet tag h o) tag 0x32 .locked s) ∧
    (IsOutlet h o → ¬ SomeLocked s (s.outlet (h * 48 + o)) →
      ((s.outlet (h * 48 + o)).binding = .unbound → Refused (.releaseOutlet tag h o) tag 0x32 .incorrectState s) ∧
      ((s.outlet (h * 48 + o)).binding = .releasing → Refused (.releaseOutlet tag h o) tag 0x32 .busy s) ∧
      ((s.outlet (h * 48 + o)).binding = .bound → ∃ t,
        OneOutlet (h * 48 + o) { s.outlet (h * 48 + o) with binding := .releasing, completionOwed := some tag } s t ∧
        exec (.releaseOutlet tag h o) s = .next
          { t with
            ot := { t.ot with boundCount := s.ot.boundCount - 1 }
            tp := replied tag 0x32 .accepted [] s.tp }))) ∧
  (∀ (tag : Byte) (h o : Nat) (s : State), AtOwner (.readOutlet tag h o) s →
    (¬ IsOutlet h o → Refused (.readOutlet tag h o) tag 0x33 .invalidParameter s) ∧
    (∀ x, IsOutlet h o → x = s.outlet (h * 48 + o) → ∃ owed : Byte, (∀ tg, x.completionOwed = some tg → owed = tg) ∧
      (outletRecord h o x ++ [owed]).length = 50 ∧
      exec (.readOutlet tag h o) s = .next { s with tp := replied tag 0x33 .done (outletRecord h o x ++ [owed]) s.tp })) ∧
  (∀ k v, be (k + 1) v = BitVec.ofNat 8 (v / 256 ^ k) :: be k v ∧ be 0 v = [] ∧ b1 v = BitVec.ofNat 8 v)

/-! ### Energy attribution -/

/-- DELIVERY_TAKE: with none begun, the oldest delivery is begun; it is taken to its end, its records in order, and its copy is offered for
forwarding, or only its next records are taken and it stays begun, so that an order may fall between two records (R43). While a close is in
progress, or with no delivery, nothing happens (log entries 1, 24). -/
def Obligations.DeliveryIsTakenWhole : Prop :=
  (∀ (s b : State) (d : Delivery) (rest : List Delivery) (n : Option Nat), s.oae.closes = [] → s.oae.taking = none →
    s.oae.deliveries = d :: rest →
    b = { s with
      oae := { s.oae with
        deliveries := rest, taking := some { head := d.head, stamp := d.stamp, rest := d.records, entries := [] } } } →
    exec (.deliveryTake n) s = exec (.deliveryTake n) b) ∧
  (∀ (s : State) (k : Taking), s.oae.closes = [] → s.oae.taking = some k →
    (∃ t, exec (.deliveryTake none) s = .next t ∧ DeliveryEnded s t) ∧
    (∀ n, k.rest.length ≤ n → exec (.deliveryTake (some n)) s = exec (.deliveryTake none) s) ∧
    (∀ n, n < k.rest.length → ∃ u entries, takeRecords k.head k.stamp (k.rest.take n) s = (u, entries) ∧
      RecordsTaken (k.rest.take n) entries s u ∧
      exec (.deliveryTake (some n)) s = .next
        { u with oae := { u.oae with taking := some { k with rest := k.rest.drop n, entries := k.entries ++ entries } } })) ∧
  (∀ (s : State) (n : Option Nat), (s.oae.closes ≠ [] ∨ s.oae.taking = none ∧ s.oae.deliveries = []) →
    exec (.deliveryTake n) s = .next s) ∧
  (∀ (h : Nat) (stamp : Period) (r : MeterRecord) (more : List MeterRecord) (s : State),
    takeRecords h stamp [] s = (s, []) ∧
    takeRecords h stamp (r :: more) s =
      ((takeRecords h stamp more (takeRecord h stamp r s).1).1,
        (takeRecord h stamp r s).2 :: (takeRecords h stamp more (takeRecord h stamp r s).1).2))

/-- A record that attributes nothing: a first reading, a reading without a collecting period, a repeat, a gap, a discontinuity. That the latches
of several share tenants reach NU in the order of the share list is the model's choice (log entry 27). -/
def Obligations.RecordThatAttributesNothing : Prop :=
  ∀ (h : Nat) (stamp : Period) (r : MeterRecord) (s : State) (o : Outlet) (k : Nat),
    o = s.outlet (h * 48 + r.outlet) → k = (stamp - o.lastStamp).toNat →
    (o.baseline = .noBaseline → (s.ct.collectingOpen = false ∨ o.binding = .unbound) →
      OneOutlet (h * 48 + r.outlet) (rebased o stamp r) s (takeRecord h stamp r s).1 ∧
      Annotated o r .baseline 0 (takeRecord h stamp r s).2) ∧
    (o.baseline = .noBaseline → s.ct.collectingOpen = true → o.binding ≠ .unbound →
      Annotated o r .baseline 0 (takeRecord h stamp r s).2 ∧
      ∃ u, OneOutlet (h * 48 + r.outlet) (rebased o stamp r) s u ∧
        (takeRecord h stamp r s).1 = { u with oae := { s.oae with accounts := (takeRecord h stamp r s).1.oae.accounts } } ∧
        (∀ n, (∃ e ∈ o.shares, e.tenant = n) → (takeRecord h stamp r s).1.account n = { s.account n with incomplete := true }) ∧
        (∀ n, (∀ e ∈ o.shares, e.tenant ≠ n) → (takeRecord h stamp r s).1.account n = s.account n)) ∧
    (o.baseline ≠ .noBaseline → k = 0 →
      OneOutlet (h * 48 + r.outlet) { o with switchState := r.switchState } s (takeRecord h stamp r s).1 ∧
      Annotated o r .normal 0 (takeRecord h stamp r s).2) ∧
    (o.baseline ≠ .noBaseline → k ≠ 0 → s.ct.collectingOpen = false →
      OneOutlet (h * 48 + r.outlet) (rebased o stamp r) s (takeRecord h stamp r s).1 ∧
      Annotated o r .baseline 0 (takeRecord h stamp r s).2) ∧
    (o.baseline ≠ .noBaseline → s.ct.collectingOpen = true → 256 ≤ k →
      Suspected (h * 48 + r.outlet) o (rebased o stamp r) s (takeRecord h stamp r s).1 ∧
      Annotated o r .gap 0 (takeRecord h stamp r s).2) ∧
    (o.baseline ≠ .noBaseline → s.ct.collectingOpen = true → k ≠ 0 → k < 256 → ceiling s o k < (r.counter - o.lastCounter).toNat →
      Suspected (h * 48 + r.outlet) o { rebased o stamp r with discontinuities := min 15 (o.discontinuities + 1) } s
        (takeRecord h stamp r s).1 ∧
      Annotated o r .discontinuity 0 (takeRecord h stamp r s).2)

/-- A plausible record: of an UNBOUND outlet it feeds the unattributed accumulator and rate; of a BOUND or RELEASING one, with distinct
tenants, each part is credited on the outlet's feed and each held rate and rate sum takes its new value. -/
def Obligations.PlausibleRecordIsAttributed : Prop :=
  ∀ (h : Nat) (stamp : Period) (r : MeterRecord) (s : State) (o : Outlet) (k d : Nat),
    o = s.outlet (h * 48 + r.outlet) → k = (stamp - o.lastStamp).toNat → d = (r.counter - o.lastCounter).toNat →
    o.baseline ≠ .noBaseline → s.ct.collectingOpen = true → k ≠ 0 → k < 256 → d ≤ ceiling s o k →
    (o.binding = .unbound → Annotated o r .unbound d (takeRecord h stamp r s).2 ∧
      ∃ u, OneOutlet (h * 48 + r.outlet) { rebased o stamp r with unattributedRate := d / (k * s.ct.config.il) } s u ∧
        (takeRecord h stamp r s).1 =
          { (if s.ct.config.threshold ≠ 0 ∧ s.ct.config.threshold < d / (k * s.ct.config.il) then latchUnit .unattributedDraw u else u) with
            oae := { s.oae with unattributed := min 281474976710655 (s.oae.unattributed + d) } }) ∧
    (o.binding ≠ .unbound → (o.shares.map ShareEntry.tenant).Nodup → Annotated o r .normal d (takeRecord h stamp r s).2 ∧
      ∃ u,
        OneOutlet (h * 48 + r.outlet)
          { rebased o stamp r with
            shares := (o.shares.zip (splitDelta d o.shares)).map fun p => { p.1 with rate := p.2 / (k * s.ct.config.il) } } s u ∧
        (takeRecord h stamp r s).1 = { u with oae := { s.oae with accounts := (takeRecord h stamp r s).1.oae.accounts } } ∧
        (∀ p ∈ o.shares.zip (splitDelta d o.shares),
          (o.feed = .a → (takeRecord h stamp r s).1.account p.1.tenant =
            { s.account p.1.tenant with
              accA := min 281474976710655 ((s.account p.1.tenant).accA + p.2)
              rateA := min 4294967295 ((s.account p.1.tenant).rateA + p.2 / (k * s.ct.config.il) - p.1.rate) }) ∧
          (o.feed = .b → (takeRecord h stamp r s).1.account p.1.tenant =
            { s.account p.1.tenant with
              accB := min 281474976710655 ((s.account p.1.tenant).accB + p.2)
              rateB := min 4294967295 ((s.account p.1.tenant).rateB + p.2 / (k * s.ct.config.il) - p.1.rate) })) ∧
        (∀ n, (∀ e ∈ o.shares, e.tenant ≠ n) → (takeRecord h stamp r s).1.account n = s.account n))

/-- A delta divided among a share list whose shares sum to 256: the entries after the first take their floors, the first the remainder, and
the parts sum to the delta. -/
def Obligations.SplitSumsToTheDelta : Prop :=
  ∀ (d : Nat) (e : ShareEntry) (others : List ShareEntry), ((e :: others).map ShareEntry.share).sum = 256 → 1 ≤ e.share → others.length ≤ 3 →
    splitDelta d (e :: others) =
      (d - (others.map fun x => d * x.share / 256).sum) :: others.map (fun x => d * x.share / 256) ∧
    (others.map fun x => d * x.share / 256).sum ≤ d ∧ (splitDelta d (e :: others)).sum = d ∧
    (others = [] → splitDelta d (e :: others) = [d]) ∧ (∀ x ∈ others, d * x.share / 256 ≤ d * 255 / 256) ∧
    d * e.share / 256 ≤ d - (others.map fun x => d * x.share / 256).sum ∧
    d - (others.map fun x => d * x.share / 256).sum ≤ d * e.share / 256 + others.length

/-- CLOSE: once the round of its expiry has ended and FM has judged it, the oldest period is closed: sweep, totals with the feed states FM handed
for this close, zeroing, ends of releases, then the settles in order (log entry 17); nothing happens before that judgment, or without a close
(log entry 1). The sweep and the ends of releases reach every listed outlet in ascending address, an outlet that is not listed is as after
power-on and the sweep leaves it so, and the totals are those of the tenants that are not VACANT, in ascending number. -/
def Obligations.CloseRunsItsStepsInOrder : Prop :=
  ∀ s : State,
    (∀ c f rest, s.oae.closes = { period := c, feeds := some f } :: rest → ∃ (u : State) (totals : List IntervalTotal) (t : State),
      u = sweep c { s with oae := { s.oae with closes := rest } } ∧ totals = u.liveTenants.map (intervalTotal c f u) ∧
      t = totals.foldl settle (endReleases (zeroCollecting (totals.foldl handTotal u))) ∧ exec .close s = .next t ∧
      t.pending = s.pending ∧ t.ct = s.ct ∧ SameLine s.tp t.tp) ∧
    ((∀ w rest, s.oae.closes = w :: rest → w.feeds = none) → exec .close s = .next s) ∧
    (∀ c, sweep c s = (s.ot.outlets.map Prod.fst).foldl (fun u key => sweepOutlet c key u) s) ∧
    endReleases s = (s.ot.outlets.map Prod.fst).foldl (fun u key => endRelease key u) s ∧
    (tableWf Outlet.initial s.ot.outlets → (s.ot.outlets.map Prod.fst).Pairwise (· < ·) ∧
      ∀ c key, key ∉ s.ot.outlets.map Prod.fst →
        s.outlet key = State.reset.outlet key ∧ sweepOutlet c key s = s ∧ endRelease key s = s) ∧
    (tableWf Tenant.initial s.tl.tenants → s.liveTenants.Pairwise (· < ·) ∧
      ∀ n, n ∈ s.liveTenants ↔ (s.tenant n).state ≠ .vacant)

/-- The steps of a close. The sweep of one outlet: with an age above the stale limit, or its head LOST (as the Head Table
stands at the sweep: log entry 35), a LIVE outlet becomes STALE and a
NO_BASELINE one stays so, its rates leaving the sums and becoming 0; a STALE outlet and a fresh one are left as they are. An Interval Total
carries the accumulators, rate sums, completeness and the feed states that FM handed for the close (log entry 33); handing one keeps its
completeness as the tenant's condition; the zeroing keeps the rate sums. -/
def Obligations.SweepTotalsAndZeroing : Prop :=
  (∀ (c : Period) (key : Nat) (s : State),
    ((s.outlet key).baseline ≠ .stale →
      (s.ct.config.staleLimit < (c + 1 - (s.outlet key).lastStamp).toNat ∨ (s.head (key / 48)).state = .lost) →
      ∃ u, OneOutlet key
          { s.outlet key with
            baseline := if (s.outlet key).baseline = .live then .stale else (s.outlet key).baseline
            shares := (s.outlet key).shares.map fun e => { e with rate := 0 }
            unattributedRate := 0 } s u ∧
        sweepOutlet c key s = { u with oae := { s.oae with accounts := (sweepOutlet c key s).oae.accounts } } ∧
        (((s.outlet key).shares.map ShareEntry.tenant).Nodup → ∀ e ∈ (s.outlet key).shares,
          ((s.outlet key).feed = .a → (sweepOutlet c key s).account e.tenant =
            { s.account e.tenant with rateA := min 4294967295 ((s.account e.tenant).rateA - e.rate) }) ∧
          ((s.outlet key).feed = .b → (sweepOutlet c key s).account e.tenant =
            { s.account e.tenant with rateB := min 4294967295 ((s.account e.tenant).rateB - e.rate) })) ∧
        (∀ n, (∀ e ∈ (s.outlet key).shares, e.tenant ≠ n) → (sweepOutlet c key s).account n = s.account n)) ∧
    (((s.outlet key).baseline = .stale ∨
        (c + 1 - (s.outlet key).lastStamp).toNat ≤ s.ct.config.staleLimit ∧ (s.head (key / 48)).state ≠ .lost) →
      sweepOutlet c key s = s)) ∧
  ((∀ (c : Period) (f : FeedStates) (s : State) (n : Nat),
    intervalTotal c f s n =
      { tenant := n, period := c, energyA := (s.account n).accA, energyB := (s.account n).accB, rateA := (s.account n).rateA
        rateB := (s.account n).rateB, incomplete := (intervalTotal c f s n).incomplete, feedA := f.a, feedB := f.b } ∧
    ((intervalTotal c f s n).incomplete = true ↔
      (s.account n).incomplete = true ∨
        ∃ k o, (k, o) ∈ s.ot.outlets ∧ o.binding ≠ .unbound ∧ o.baseline ≠ .live ∧ ∃ e ∈ o.shares, e.tenant = n)) ∧
  (∀ (s : State) (x : IntervalTotal),
    (handTotal s x).account x.tenant = { s.account x.tenant with lastIncomplete := x.incomplete } ∧
    (∀ n, n ≠ x.tenant → (handTotal s x).account n = s.account n) ∧
    (x.incomplete = false → (handTotal s x).nu = s.nu) ∧
    (x.incomplete = true → (handTotal s x).nu = (latchTenant .incompleteData x.tenant s).nu)) ∧
  (∀ s : State, zeroCollecting s = { s with oae := { s.oae with accounts := (zeroCollecting s).oae.accounts } } ∧
    ∀ n, (zeroCollecting s).account n = { s.account n with accA := 0, accB := 0, incomplete := false }))

/-- The end of a release at a close: with no completion owed, or with room for it, the outlet passes to UNBOUND; without room it stays
RELEASING; an outlet that is not RELEASING is left as it is. -/
def Obligations.ReleaseEndsAtTheClose : Prop :=
  ∀ (key : Nat) (s : State),
    ((s.outlet key).binding ≠ .releasing → endRelease key s = s) ∧
    (∀ tag, (s.outlet key).binding = .releasing → (s.outlet key).completionOwed = some tag → 32 ≤ s.tp.completions.length →
      endRelease key s = s) ∧
    ((s.outlet key).binding = .releasing → ((s.outlet key).completionOwed = none ∨ s.tp.completions.length < 32) →
      (endRelease key s).outlet key =
        { s.outlet key with binding := .unbound, shares := [], unattributedRate := 0, shedMark := false, completionOwed := none } ∧
      (∀ j, j ≠ key → (endRelease key s).outlet j = s.outlet j) ∧
      endRelease key s =
        { s with
          ot := { s.ot with outlets := (endRelease key s).ot.outlets }
          oae := { s.oae with accounts := (endRelease key s).oae.accounts }
          es := (endRelease key s).es, tp := (endRelease key s).tp } ∧
      ((s.outlet key).completionOwed = none → (endRelease key s).tp = s.tp) ∧
      (∀ tag, (s.outlet key).completionOwed = some tag →
        (endRelease key s).tp =
          { s.tp with
            completions := s.tp.completions ++
              [{ code := 0x32, tag := tag
                 outcome := if (s.outlet key).switchState = .off then .releasedWhileOff else .released
                 body := .release { head := key / 48, outlet := key % 48 } }] }) ∧
      (((s.outlet key).shares.map ShareEntry.tenant).Nodup → ∀ e ∈ (s.outlet key).shares,
        ((s.outlet key).feed = .a → (endRelease key s).account e.tenant =
          { s.account e.tenant with rateA := min 4294967295 ((s.account e.tenant).rateA - e.rate) }) ∧
        ((s.outlet key).feed = .b → (endRelease key s).account e.tenant =
          { s.account e.tenant with rateB := min 4294967295 ((s.account e.tenant).rateB - e.rate) })) ∧
      (∀ n, (∀ e ∈ (s.outlet key).shares, e.tenant ≠ n) →
        (endRelease key s).account n = s.account n ∧ (endRelease key s).esc n = s.esc n) ∧
      ((s.outlet key).shedMark = true → ∀ e ∈ (s.outlet key).shares,
        ((endRelease key s).esc e.tenant).shedOrder =
          (s.esc e.tenant).shedOrder.filter fun x => decide (x ≠ { head := key / 48, outlet := key % 48 })))

/-! ### The settle -/

/-- A bucket that reaches L periods closes into one ring entry and is emptied, and the demand is computed over the entries that the ring then
yields, and not otherwise; below L the bucket holds its new count and nothing is computed. The demand ring: ROLLING keeps the
last B entries and yields them once it holds B; BLOCK yields B entries and empties; a ring of at most B entries, below B in BLOCK mode,
stays so. -/
def Obligations.BucketsEnterTheDemandRing : Prop :=
  (∀ (active both : Bool) (k : Contract) (x : IntervalTotal) (fs : List FeedLimit) (s : State) (r : Tenant) (b : Bucket),
    r = s.tenant x.tenant →
    b =
      { energyA := min 281474976710655 (r.bucket.energyA + x.energyA), energyB := min 281474976710655 (r.bucket.energyB + x.energyB)
        count := r.bucket.count + 1
        incomplete := r.bucket.incomplete || x.incomplete || (match r.lastSettled with | none => false | some p => decide (x.period ≠ p + 1)) || both } →
    (b.count = k.window.bucketLength →
      ((bucketStep active both k x fs s).1.tenant x.tenant).bucket = { energyA := 0, energyB := 0, count := 0, incomplete := false } ∧
      ((bucketStep active both k x fs s).1.tenant x.tenant).ring =
        (placeEntry k.window r.ring { energyA := b.energyA, energyB := b.energyB, incomplete := b.incomplete, endPeriod := x.period }).1 ∧
      ∀ p, p = placeEntry k.window r.ring
          { energyA := b.energyA, energyB := b.energyB, incomplete := b.incomplete, endPeriod := x.period } →
        ∃ u, OneTenant x.tenant { r with bucket := { energyA := 0, energyB := 0, count := 0, incomplete := false }, ring := p.1 } s u ∧
          bucketStep active both k x fs s =
            (match p.2 with | none => (u, []) | some used => demandComputation active k x fs used u)) ∧
    (b.count ≠ k.window.bucketLength →
      bucketStep active both k x fs s = (s.setTenant x.tenant { r with bucket := b }, []))) ∧
  (∀ (w : WindowFields) (ring : List RingEntry) (e : RingEntry), 1 ≤ w.buckets → ring.length ≤ w.buckets →
    (w.mode = .block → ring.length < w.buckets) →
    (ring.length + 1 < w.buckets → placeEntry w ring e = (ring ++ [e], none)) ∧
    (w.mode = .rolling → ring.length + 1 = w.buckets → placeEntry w ring e = (ring ++ [e], some (ring ++ [e]))) ∧
    (w.mode = .rolling → ring.length = w.buckets → placeEntry w ring e = (ring.tail ++ [e], some (ring.tail ++ [e]))) ∧
    (w.mode = .block → ring.length + 1 = w.buckets → placeEntry w ring e = ([], some (ring ++ [e]))) ∧
    (placeEntry w ring e).1.length ≤ w.buckets ∧ (w.mode = .block → (placeEntry w ring e).1.length < w.buckets))

/-- A demand computation: the exact sums over the window length, truncated and clamped, and the peak that only a greater value replaces. -/
def Obligations.DemandIsTheMeanOfTheWindow : Prop :=
  ∀ (w : WindowFields) (il : Nat) (c : Period) (used : List RingEntry) (d : DemandValue) (a b seconds : Nat),
    a = (used.map RingEntry.energyA).sum → b = (used.map RingEntry.energyB).sum → seconds = w.buckets * w.bucketLength * il →
    d = computeDemand w il c used →
    (w.cls = .pooled → d = { cls := .pooled, value1 := min 16777215 ((a + b) / seconds), value2 := 0, period := c }) ∧
    (w.cls = .perFeed →
      d = { cls := .perFeed, value1 := min 16777215 (a / seconds), value2 := min 16777215 (b / seconds), period := c }) ∧
    updatePeak none d = { watts := if w.cls = .pooled then d.value1 else min 16777215 (d.value1 + d.value2), period := c } ∧
    ∀ p : PeakDemand, updatePeak (some p) d =
      (if p.watts < (if w.cls = .pooled then d.value1 else min 16777215 (d.value1 + d.value2)) then
        { watts := if w.cls = .pooled then d.value1 else min 16777215 (d.value1 + d.value2), period := c } else p)

/-- The evaluated feeds of a settle with their demand limits, their burst ceilings and their exits, with the example of 24,000 W at 150 percent
and hysteresis 40; the BURST machine is judged against the ceiling and its exit, the DEMAND machine against the limit and its exit. A demand
computation writes the last demand and the peak; at the settle of a HELD or CLOSING tenant it evaluates no machine. -/
def Obligations.BurstCeilingAndExit : Prop :=
  (∀ (k : Contract) (al : Allowance),
    (k.window.cls = .pooled → feedLimits k al = [{ scope := .pooled, limit := k.limits.capacity1 }]) ∧
    (k.window.cls = .perFeed →
      feedLimits k .off = [{ scope := .feedA, limit := k.limits.capacity1 }, { scope := .feedB, limit := k.limits.capacity2 }] ∧
      feedLimits k (.covers .a) = [{ scope := .feedB, limit := k.limits.capacity1 + k.limits.capacity2 }] ∧
      feedLimits k (.covers .b) = [{ scope := .feedA, limit := k.limits.capacity1 + k.limits.capacity2 }] ∧ feedLimits k .both = [])) ∧
  (∀ (k : Contract) (x : IntervalTotal) (fs : List FeedLimit),
    burstJudged k x fs = fs.map fun f =>
      { scope := f.scope, value := burstValue x f.scope, bound := f.limit * k.limits.burstPercent / 100
        exit := f.limit * k.limits.burstPercent / 100 * (1024 - k.limits.hysteresis) / 1024 }) ∧
  (∀ (k : Contract) (d : DemandValue) (fs : List FeedLimit),
    demandJudged k d fs = fs.map fun f =>
      { scope := f.scope, value := demandValue d f.scope, bound := f.limit, exit := f.limit * (1024 - k.limits.hysteresis) / 1024 }) ∧
  (∀ b limit, 100 ≤ b → limit ≤ burstCeiling b limit) ∧
  burstCeiling 150 24000 = 36000 ∧ exitThreshold 40 36000 = 34593 ∧
  (∀ (k : Contract) (x : IntervalTotal) (fs : List FeedLimit) (s : State),
    burstCheck k x fs s = evaluate k.limits x.tenant .burst x.period (!x.incomplete) (classify (burstJudged k x fs)) s) ∧
  (∀ (k : Contract) (x : IntervalTotal) (fs : List FeedLimit) (used : List RingEntry) (s : State) (d : DemandValue),
    d = computeDemand k.window s.ct.config.il x.period used →
    demandComputation true k x fs used s =
      evaluate k.limits x.tenant .demand x.period (!used.any RingEntry.incomplete) (classify (demandJudged k d fs))
        (s.setTenant x.tenant
          { s.tenant x.tenant with lastDemand := some d, peak := some (updatePeak (s.tenant x.tenant).peak d) }) ∧
    demandComputation false k x fs used s =
      (s.setTenant x.tenant
        { s.tenant x.tenant with lastDemand := some d, peak := some (updatePeak (s.tenant x.tenant).peak d) }, []))

/-- One evaluation of a machine. In CLEAR or PENDING a complete and an incomplete one move it alike. In BREACH or EASING a complete evaluation at
or below exit eases and clears it, an incomplete one holds it, any other returns it to BREACH; the open breach is kept up to date. -/
def Obligations.ExceedanceMachinesMove : Prop :=
  (∀ (g e : Nat) (c : Period) (complete : Bool) (ev : Evaluation) (m : ExceedanceMachine) (x : MachineStep),
    x = evalMachine g e c complete ev m →
    (m.state = .clear → ev.band ≠ .above → x = { machine := m, move := none, closed := none }) ∧
    (m.state = .clear → ev.band = .above → g ≤ 1 → x = Entered c ev) ∧
    (m.state = .clear → ev.band = .above → 2 ≤ g →
      x = { machine := { state := .pending, count := 1, breach := none }, move := none, closed := none }) ∧
    (m.state = .pending → ev.band = .above → g ≤ m.count + 1 → x = Entered c ev) ∧
    (m.state = .pending → ev.band = .above → m.count + 1 < g →
      x = { machine := { m with count := m.count + 1 }, move := none, closed := none }) ∧
    (m.state = .pending → ev.band ≠ .above →
      x = { machine := { state := .clear, count := 0, breach := none }, move := none, closed := none })) ∧
  (∀ (g e : Nat) (c : Period) (complete : Bool) (ev : Evaluation) (m : ExceedanceMachine) (b b' : OpenBreach) (x : MachineStep),
    m.breach = some b →
    b' = { b with peak := max b.peak ev.peak, feeds := { a := b.feeds.a || ev.feedsOver.a, b := b.feeds.b || ev.feedsOver.b } } →
    x = evalMachine g e c complete ev m →
    (m.state = .breach → (ev.band ≠ .atExit ∨ complete = false) →
      x = { machine := { m with breach := some b' }, move := none, closed := none }) ∧
    (m.state = .breach → ev.band = .atExit → complete = true → 2 ≤ e →
      x = { machine := { state := .easing, count := 1, breach := some b' }, move := none, closed := none }) ∧
    (m.state = .breach → ev.band = .atExit → complete = true → e ≤ 1 →
      x = { machine := { state := .clear, count := 0, breach := none }, move := some .clear, closed := some b' }) ∧
    (m.state = .easing → ev.band ≠ .atExit →
      x = { machine := { state := .breach, count := 0, breach := some b' }, move := some .back, closed := none }) ∧
    (m.state = .easing → ev.band = .atExit → complete = false →
      x = { machine := { m with breach := some b' }, move := none, closed := none }) ∧
    (m.state = .easing → ev.band = .atExit → complete = true → m.count + 1 < e →
      x = { machine := { m with count := m.count + 1, breach := some b' }, move := none, closed := none }) ∧
    (m.state = .easing → ev.band = .atExit → complete = true → e ≤ m.count + 1 →
      x = { machine := { state := .clear, count := 0, breach := none }, move := some .clear, closed := some b' }))

/-- The failover allowance at a settle: the first row that applies; a POOLED tenant has none. -/
def Obligations.FailoverAllowanceFollowsTheFeeds : Prop :=
  ∀ (w : WindowFields) (r : Tenant) (a b : FeedState) (x : AllowanceStep), x = allowanceStep w r a b →
    (w.cls = .pooled → x = { coveredFeed := none, tail := 0, held := false, holds := .off }) ∧
    (w.cls = .perFeed → a ≠ .present → b = .present →
      x = { coveredFeed := some .a, tail := w.buckets * w.bucketLength, held := true, holds := .covers .a }) ∧
    (w.cls = .perFeed → a = .present → b ≠ .present →
      x = { coveredFeed := some .b, tail := w.buckets * w.bucketLength, held := true, holds := .covers .b }) ∧
    (w.cls = .perFeed → a ≠ .present → b ≠ .present →
      x =
        { coveredFeed := r.coveredFeed, tail := if 0 < r.allowanceTail then w.buckets * w.bucketLength else 0, held := true
          holds := .both }) ∧
    (∀ f, w.cls = .perFeed → a = .present → b = .present → 0 < r.allowanceTail → r.coveredFeed = some f →
      x =
        { coveredFeed := if r.allowanceTail = 1 then none else some f, tail := r.allowanceTail - 1, held := true, holds := .covers f }) ∧
    (w.cls = .perFeed → a = .present → b = .present → r.allowanceTail = 0 →
      x = { coveredFeed := none, tail := 0, held := false, holds := .off })

/-- FM's judgment of a tally for one feed: PRESENT becomes LOST, LOST becomes RETURNING, RETURNING counts to the restore count or falls back;
with no verdict nothing moves. -/
def Obligations.FeedStatesFollowTheVerdicts : Prop :=
  (∀ frames absent, frames < 2 * absent → 0 < frames → feedVerdict frames absent = .majorityAbsent) ∧
  (∀ frames absent, frames < 2 * (frames - absent) → absent ≤ frames → feedVerdict frames absent = .majorityPresent) ∧
  (∀ frames absent, absent ≤ frames → ¬ frames < 2 * absent → ¬ frames < 2 * (frames - absent) → feedVerdict frames absent = .neither) ∧
  feedVerdict 0 0 = .neither ∧
  (∀ (r : Nat) (w : FeedWatch),
    (w.state = .present → judgeFeed r w .majorityAbsent = { state := .lost, count := 0 }) ∧
    (w.state = .present → judgeFeed r w .majorityPresent = w) ∧
    (w.state = .lost → judgeFeed r w .majorityPresent = { state := .returning, count := 0 }) ∧
    (w.state = .lost → judgeFeed r w .majorityAbsent = w) ∧
    (w.state = .returning → judgeFeed r w .majorityAbsent = { state := .lost, count := 0 }) ∧
    (w.state = .returning → r ≤ w.count + 1 → judgeFeed r w .majorityPresent = { state := .present, count := 0 }) ∧
    (w.state = .returning → w.count + 1 < r → judgeFeed r w .majorityPresent = { state := .returning, count := w.count + 1 }) ∧
    judgeFeed r w .neither = w) ∧
  (∀ (t : FeedTally) (s u : State), u = judgeTally t s →
    u = { s with fm := u.fm, nu := u.nu } ∧
    u.fm.a = judgeFeed s.ct.config.restoreCount s.fm.a (feedVerdict t.frames t.absentA) ∧
    u.fm.b = judgeFeed s.ct.config.restoreCount s.fm.b (feedVerdict t.frames t.absentB) ∧
    (s.fm.a.state = .present → u.fm.a.state = .lost → u.nu.unit.latched.getLsbD 1 = true) ∧
    (s.fm.b.state = .present → u.fm.b.state = .lost → u.nu.unit.latched.getLsbD 1 = true) ∧
    (s.fm.a.state = .returning → u.fm.a.state = .present → u.nu.unit.latched.getLsbD 5 = true) ∧
    (s.fm.b.state = .returning → u.fm.b.state = .present → u.nu.unit.latched.getLsbD 5 = true) ∧
    (¬ (s.fm.a.state = .present ∧ u.fm.a.state = .lost) → ¬ (s.fm.b.state = .present ∧ u.fm.b.state = .lost) →
      u.nu.unit.latched.getLsbD 1 = s.nu.unit.latched.getLsbD 1) ∧
    u.nu = (feedMoved s.fm.b u.fm.b (feedMoved s.fm.a u.fm.a s)).nu)

/-- The classification of an evaluation: none without an evaluated feed, over with any feed over, at or below exit with every feed so. The machine
and the log take its outcome, an entry and a clear latch their causes, and the move is handed on; without a classification nothing moves. -/
def Obligations.EvaluationIsClassifiedAndHandedOn : Prop :=
  (classify [] = none ∧
  ∀ (js : List Judged), js ≠ [] → ∃ ev, classify js = some ev ∧
    (ev.band = .above ↔ ∃ j ∈ js, j.bound < j.value) ∧
    (ev.band = .atExit ↔ (∀ j ∈ js, j.value ≤ j.bound) ∧ ∀ j ∈ js, j.value ≤ j.exit) ∧
    (∃ j ∈ js, ev.peak = j.value) ∧ (∀ j ∈ js, j.value ≤ ev.peak) ∧
    (ev.feedsOver.a = true ↔ ∃ j ∈ js, j.bound < j.value ∧ j.scope ≠ .feedB) ∧
    (ev.feedsOver.b = true ↔ ∃ j ∈ js, j.bound < j.value ∧ j.scope ≠ .feedA)) ∧
  (∀ (k : LimitFields) (n : Nat) (kind : MachineKind) (c : Period) (complete : Bool) (s : State),
    evaluate k n kind c complete none s = (s, []) ∧
    ∀ (ev : Evaluation) (x : MachineStep) (r : Tenant),
      x = evalMachine (if kind = .burst then k.burstGrace else k.demandGrace) k.easeCount c complete ev
        (if kind = .burst then (s.tenant n).burst else (s.tenant n).demand) →
      r.breachLog =
        (match x.closed with
        | none => (s.tenant n).breachLog
        | some b =>
          List.drop ((s.tenant n).breachLog.length - 3)
            ((s.tenant n).breachLog ++
              [{ kind := kind, feeds := b.feeds, start := b.start, duration := (c - b.start).toNat, peak := b.peak
                 outcome := if b.shed then .shed else .cleared }])) →
      r = { s.tenant n with
        breachLog := r.breachLog
        burst := if kind = .burst then x.machine else (s.tenant n).burst
        demand := if kind = .burst then (s.tenant n).demand else x.machine } →
      evaluate k n kind c complete (some ev) s =
        (match x.move with
        | none => (s.setTenant n r, [])
        | some .entry =>
          (latchTenant (if kind = .burst then .burstBreach else .demandBreach) n (s.setTenant n r), [{ machine := kind, move := .entry }])
        | some .back => (s.setTenant n r, [{ machine := kind, move := .back }])
        | some .clear => (latchTenant .breachCleared n (s.setTenant n r), [{ machine := kind, move := .clear }])))

/-- A settle reaches no other tenant's record, escalation or cause set, and discards the total of a VACANT tenant. -/
def Obligations.SettleReachesItsTenantAlone : Prop :=
  ∀ (s : State) (x : IntervalTotal),
    ((s.tenant x.tenant).state = .vacant → settle s x = s) ∧
    ∀ m, m ≠ x.tenant → (settle s x).tenant m = s.tenant m ∧ (settle s x).esc m = s.esc m ∧ (settle s x).causes m = s.causes m

/-- A settle adds the energies of the total to the lifetime energies, applies a pending contract and writes the last settled period; a tenant
that passes to VACANT in it has the values after power-on. -/
def Obligations.SettleAddsToTheLifetimeEnergies : Prop :=
  ∀ (s : State) (x : IntervalTotal) (k : Contract),
    (s.tenant x.tenant).state ≠ .vacant → (s.tenant x.tenant).contract = some k →
    (((settle s x).tenant x.tenant).state ≠ .vacant →
      ((settle s x).tenant x.tenant).lifetimeA = min 281474976710655 ((s.tenant x.tenant).lifetimeA + x.energyA) ∧
      ((settle s x).tenant x.tenant).lifetimeB = min 281474976710655 ((s.tenant x.tenant).lifetimeB + x.energyB) ∧
      ((settle s x).tenant x.tenant).lastSettled = some x.period ∧ ((settle s x).tenant x.tenant).pendingLimits = none ∧
      ((settle s x).tenant x.tenant).contract =
        some { k with limits := (s.tenant x.tenant).pendingLimits.getD k.limits } ∧
      ((settle s x).tenant x.tenant).state = (s.tenant x.tenant).state) ∧
    (((settle s x).tenant x.tenant).state = .vacant →
      (s.tenant x.tenant).state = .closing ∨ ∃ tag, (s.tenant x.tenant).slot = .closeTenant tag) ∧
    (((settle s x).tenant x.tenant).state = .vacant →
      (settle s x).tenant x.tenant = Tenant.initial ∧ (settle s x).causes x.tenant = CauseSet.initial ∧
      (settle s x).tl.count = s.tl.count - 1)

/-! ### The tenant orders -/

/-- SET-CONTRACT: ranges, lock, state; VACANT is created, HELD is replaced at once, ACTIVE takes pending limit fields. The mask of a contract in
force replaces the tenant's, and its place in the Notice Queue is judged anew. -/
def Obligations.SetContractByTheTenantsState : Prop :=
  ∀ (tag : Byte) (n : Nat) (f : ContractFields) (s : State), AtOwner (.setContract tag n f) s →
    (¬ ContractRanges n f → Refused (.setContract tag n f) tag 0x40 .invalidParameter s) ∧
    (ContractRanges n f → GroupLocked s n → Refused (.setContract tag n f) tag 0x40 .locked s) ∧
    (ContractRanges n f → ¬ GroupLocked s n →
      ((s.tenant n).state = .closing → Refused (.setContract tag n f) tag 0x40 .busy s) ∧
      ((s.tenant n).state = .active → (s.tenant n).contract.map Contract.window ≠ some (contractFrom f).window →
        Refused (.setContract tag n f) tag 0x40 .incorrectState s) ∧
      ((s.tenant n).state = .active → (s.tenant n).contract.map Contract.window = some (contractFrom f).window → ∃ t,
        OneTenant n { s.tenant n with pendingLimits := some (contractFrom f).limits } s t ∧
        exec (.setContract tag n f) s = .next { t with tp := replied tag 0x40 .done [1] s.tp }) ∧
      ((s.tenant n).state = .vacant → ∃ t nu, TenantMasked n f.mask s nu ∧
        OneTenant n { State.reset.tenant n with state := .active, contract := some (contractFrom f) } s t ∧
        exec (.setContract tag n f) s = .next
          { t with
            tl := { t.tl with count := s.tl.count + 1 }, nu := nu
            tp := replied tag 0x40 .done [0] s.tp }) ∧
      ((s.tenant n).state = .held → ∃ t nu, TenantMasked n f.mask s nu ∧
        OneTenant n
          (if (s.tenant n).contract.map Contract.window = some (contractFrom f).window then
            { s.tenant n with contract := some (contractFrom f), pendingLimits := none }
          else
            { s.tenant n with
              contract := some (contractFrom f), pendingLimits := none, ring := []
              bucket := { energyA := 0, energyB := 0, count := 0, incomplete := false }, lastDemand := none
              allowanceTail := min (s.tenant n).allowanceTail (f.buckets * f.bucketLength) }) s t ∧
        exec (.setContract tag n f) s = .next { t with nu := nu, tp := replied tag 0x40 .done [0] s.tp }))

/-- HOLD-TENANT and RESUME-TENANT: range, lock, state; a hold closes the machines, returns the stage to IDLE and makes the tenant HELD.
That a switch phase left with nothing to send ends at once is the model's choice (log entry 14). -/
def Obligations.HoldAndResumeTenant : Prop :=
  (∀ (tag : Byte) (n : Nat) (s : State), AtOwner (.holdTenant tag n) s →
    (¬ IsTenant n → Refused (.holdTenant tag n) tag 0x41 .invalidParameter s) ∧
    (IsTenant n → GroupLocked s n → Refused (.holdTenant tag n) tag 0x41 .locked s) ∧
    (IsTenant n → ¬ GroupLocked s n → (s.tenant n).state ≠ .active → Refused (.holdTenant tag n) tag 0x41 .incorrectState s) ∧
    (IsTenant n → ¬ GroupLocked s n → (s.tenant n).state = .active → ∃ r u v t,
      MachinesClosed .held (s.tenant n) r ∧ OneTenant n r s u ∧ StageReturned n u v ∧ OneTenant n { v.tenant n with state := .held } v t ∧
      exec (.holdTenant tag n) s = .next { t with tp := replied tag 0x41 .done [] t.tp })) ∧
  (∀ (tag : Byte) (n : Nat) (s : State), AtOwner (.resumeTenant tag n) s →
    (¬ IsTenant n → Refused (.resumeTenant tag n) tag 0x42 .invalidParameter s) ∧
    (IsTenant n → GroupLocked s n → Refused (.resumeTenant tag n) tag 0x42 .locked s) ∧
    (IsTenant n → ¬ GroupLocked s n → (s.tenant n).state ≠ .held → Refused (.resumeTenant tag n) tag 0x42 .incorrectState s) ∧
    (IsTenant n → ¬ GroupLocked s n → (s.tenant n).state = .held → ∃ t,
      OneTenant n { s.tenant n with state := .active } s t ∧
      exec (.resumeTenant tag n) s = .next { t with tp := replied tag 0x42 .done [] s.tp }))

/-- STATEMENT and CLOSE-TENANT: range, lock, state, slot; a statement enters the slot, a close also makes the tenant CLOSING and returns the
stage to IDLE. The last steps of a settle: the summary of a contract that asks for one, dropped with SUMMARY_LOST when the queue holds 32; the
slot, whose statement, final statement or owed completion is placed when there is room and waits when there is none. That the owed completion
of a STATEMENT or CLOSE-TENANT carries the tenant's number is the model's choice (log entry 28), and so is that a switch phase left with
nothing to send ends at once (log entry 14). -/
def Obligations.LongOrdersOfTheLedger : Prop :=
  (∀ (tag : Byte) (n cp : Nat) (s : State), AtOwner (.statement tag n cp) s →
    (¬ (IsTenant n ∧ cp ≤ 1) → Refused (.statement tag n cp) tag 0x44 .invalidParameter s) ∧
    (IsTenant n → cp = 1 → GroupLocked s n → Refused (.statement tag n cp) tag 0x44 .locked s) ∧
    (IsTenant n → cp ≤ 1 → (cp = 0 ∨ ¬ GroupLocked s n) →
      (((s.tenant n).state = .vacant ∨ (s.tenant n).state = .closing) → Refused (.statement tag n cp) tag 0x44 .incorrectState s) ∧
      (((s.tenant n).state = .active ∨ (s.tenant n).state = .held) → (s.tenant n).slot ≠ .empty →
        Refused (.statement tag n cp) tag 0x44 .busy s) ∧
      (((s.tenant n).state = .active ∨ (s.tenant n).state = .held) → (s.tenant n).slot = .empty → ∃ t,
        OneTenant n { s.tenant n with slot := .statement tag (decide (cp = 1)) } s t ∧
        exec (.statement tag n cp) s = .next { t with tp := replied tag 0x44 .accepted [] s.tp }))) ∧
  (∀ (tag : Byte) (n : Nat) (s : State), AtOwner (.closeTenant tag n) s →
    (¬ IsTenant n → Refused (.closeTenant tag n) tag 0x43 .invalidParameter s) ∧
    (IsTenant n → GroupLocked s n → Refused (.closeTenant tag n) tag 0x43 .locked s) ∧
    (IsTenant n → ¬ GroupLocked s n →
      (((s.tenant n).state = .vacant ∨ (s.tenant n).state = .closing ∨
          ∃ k o, (k, o) ∈ s.ot.outlets ∧ o.binding ≠ .unbound ∧ ∃ e ∈ o.shares, e.tenant = n) →
        Refused (.closeTenant tag n) tag 0x43 .incorrectState s) ∧
      (((s.tenant n).state = .active ∨ (s.tenant n).state = .held) →
        (∀ k o, (k, o) ∈ s.ot.outlets → o.binding ≠ .unbound → ∀ e ∈ o.shares, e.tenant ≠ n) →
        ((s.tenant n).slot ≠ .empty → Refused (.closeTenant tag n) tag 0x43 .busy s) ∧
        ((s.tenant n).slot = .empty → ∃ u t,
          OneTenant n { s.tenant n with stateBeforeClose := some (s.tenant n).state, slot := .closeTenant tag, state := .closing } s u ∧
          StageReturned n u t ∧ exec (.closeTenant tag n) s = .next { t with tp := replied tag 0x43 .accepted [] t.tp })))) ∧
  (∀ (k : Contract) (x : IntervalTotal) (s : State) (r : Summary),
    r =
      { tenant := x.tenant, period := x.period, energyA := x.energyA, energyB := x.energyB, rateA := min 16777215 x.rateA
        rateB := min 16777215 x.rateB, demand := (s.tenant x.tenant).lastDemand, burstState := (s.tenant x.tenant).burst.state
        demandState := (s.tenant x.tenant).demand.state, stage := (s.esc x.tenant).stage, incomplete := x.incomplete } →
    (k.limits.summary = false → summaryStep k x s = s) ∧
    (k.limits.summary = true → s.tp.summaries.length < 32 →
      summaryStep k x s = { s with tp := { s.tp with summaries := s.tp.summaries ++ [r] } }) ∧
    (k.limits.summary = true → 32 ≤ s.tp.summaries.length → summaryStep k x s = latchUnit .summaryLost s)) ∧
  (∀ (n : Nat) (c : Period) (s : State),
    ((s.tenant n).slot = .empty → (s.tenant n).state ≠ .closing → slotStep n c s = s) ∧
    ((s.tenant n).slot = .empty → (s.tenant n).state = .closing → Vacated n s (slotStep n c s)) ∧
    (∀ tag, (s.tenant n).slot = .restoreOutlets tag → slotStep n c s = s) ∧
    (32 ≤ s.tp.completions.length → (s.tenant n).slot ≠ .empty → slotStep n c s = s) ∧
    (∀ tag cp k, s.tp.completions.length < 32 → (s.tenant n).slot = .statement tag cp → (s.tenant n).contract = some k →
      OneTenant n { s.tenant n with slot := .empty, peak := if cp then none else (s.tenant n).peak }
        (placed
          { code := 0x44, tag := tag, outcome := .stated, body := .statement (statementUnder n c k (s.tenant n) (s.esc n).stage) } s)
        (slotStep n c s)) ∧
    (∀ tag k, s.tp.completions.length < 32 → (s.tenant n).slot = .closeTenant tag → (s.tenant n).contract = some k →
      Vacated n
        (placed
          { code := 0x43, tag := tag, outcome := .closed, body := .statement (statementUnder n c k (s.tenant n) (s.esc n).stage) } s)
        (slotStep n c s)) ∧
    (∀ order tag outcome tallies, s.tp.completions.length < 32 → (s.tenant n).slot = .owed order tag outcome tallies →
      OneTenant n { s.tenant n with slot := .empty }
        (placed
          { code := match order with | .statement => 0x44 | .closeTenant => 0x43 | .restoreOutlets => 0x50
            tag := tag, outcome := outcome
            body := match order with
              | .restoreOutlets => .restore n (tallies.getD { confirmed := 0, alreadyOn := 0, atLimit := 0 })
              | _ => .tenant n } s)
        (slotStep n c s)))

/-- RESET-TENANT: range, lock, state; the order in the slot is ended, a CLOSING tenant is open again, machines and window are emptied, the
stage is IDLE and the failed set empty. That the completion of an abandoned order carries the tenant's number is the model's choice (log
entry 28), and so is that a switch phase left with nothing to send ends at once (log entry 14). -/
def Obligations.ResetTenantEmptiesTheWindow : Prop :=
  ∀ (tag : Byte) (n : Nat) (s : State), AtOwner (.resetTenant tag n) s →
    (¬ IsTenant n → Refused (.resetTenant tag n) tag 0x45 .invalidParameter s) ∧
    (IsTenant n → GroupLocked s n → Refused (.resetTenant tag n) tag 0x45 .locked s) ∧
    (IsTenant n → ¬ GroupLocked s n → (s.tenant n).state = .vacant → Refused (.resetTenant tag n) tag 0x45 .incorrectState s) ∧
    (IsTenant n → ¬ GroupLocked s n → (s.tenant n).state ≠ .vacant → ∃ (st : TenantState) (r : Tenant) (t : State),
      ((s.tenant n).state ≠ .closing → st = (s.tenant n).state) ∧
      (∀ b, (s.tenant n).state = .closing → (s.tenant n).stateBeforeClose = some b → st = b) ∧
      MachinesClosed .reset { s.tenant n with state := st } r ∧
      t.tenant n =
        { r with
          ring := [], bucket := { energyA := 0, energyB := 0, count := 0, incomplete := false }, lastDemand := none, peak := none
          coveredFeed := none, allowanceTail := 0, allowanceHeld := false, slot := (t.tenant n).slot } ∧
      t = { s with mlc := t.mlc, tl := { s.tl with tenants := t.tl.tenants }, es := t.es, tp := t.tp } ∧
      (∀ m, m ≠ n → t.tenant m = s.tenant m ∧ t.esc m = s.esc m) ∧
      (t.esc n).stage = .idle ∧ (t.esc n).failed = [] ∧ (t.esc n).shedOrder = (s.esc n).shedOrder ∧
      ((s.esc n).stage ≠ .shedding → t.mlc = s.mlc) ∧
      ((s.esc n).stage = .shedding → (t.esc n).awaiting = none ∧ OffWithdrawn n s.mlc t.mlc) ∧
      (((s.tenant n).slot = .empty ∨ ∃ o tg oc k, (s.tenant n).slot = .owed o tg oc k) →
        (t.tenant n).slot = (s.tenant n).slot ∧ t.tp = s.tp) ∧
      (∀ (tg : Byte) (code : Nat) (order : LongOrder), ((∃ cp, (s.tenant n).slot = .statement tg cp) ∧ code = 0x44 ∧ order = .statement ∨
          (s.tenant n).slot = .closeTenant tg ∧ code = 0x43 ∧ order = .closeTenant) →
        (s.tp.completions.length < 32 → (t.tenant n).slot = .empty ∧
          t.tp = { s.tp with
            completions := s.tp.completions ++ [{ code := code, tag := tg, outcome := .abandoned, body := .tenant n }] }) ∧
        (32 ≤ s.tp.completions.length → (t.tenant n).slot = .owed order tg .abandoned none ∧ t.tp = s.tp)) ∧
      (∀ tg, (s.tenant n).slot = .restoreOutlets tg → (s.esc n).stage = .restoring → ∃ v,
        StageReturned n s v ∧ (t.tenant n).slot = (v.tenant n).slot ∧ t.tp = v.tp) ∧
      exec (.resetTenant tag n) s = .next { t with tp := replied tag 0x45 .done [] t.tp })

/-! ### Escalation -/

/-- RESTORE-OUTLETS: range, lock, state and stage, slot; with nothing marked it is done at once, otherwise the restore begins. -/
def Obligations.RestoreOutletsBeginsARestore : Prop :=
  ∀ (tag : Byte) (n : Nat) (s : State), AtOwner (.restoreOutlets tag n) s →
    (¬ IsTenant n → Refused (.restoreOutlets tag n) tag 0x50 .invalidParameter s) ∧
    (IsTenant n → GroupLocked s n → Refused (.restoreOutlets tag n) tag 0x50 .locked s) ∧
    (IsTenant n → ¬ GroupLocked s n →
      (((s.tenant n).state = .vacant ∨ (s.tenant n).state = .closing ∨ (s.esc n).stage = .armed ∨ (s.esc n).stage = .shedding) →
        Refused (.restoreOutlets tag n) tag 0x50 .incorrectState s) ∧
      (((s.tenant n).state = .active ∨ (s.tenant n).state = .held) → (s.esc n).stage ≠ .armed → (s.esc n).stage ≠ .shedding →
        ((s.tenant n).slot ≠ .empty → Refused (.restoreOutlets tag n) tag 0x50 .busy s) ∧
        ((s.tenant n).slot = .empty → (s.esc n).shedOrder = [] → ∃ t,
          OneEsc n { s.esc n with failed := [], stage := if (s.esc n).stage = .shedHold then .idle else (s.esc n).stage } s t ∧
          exec (.restoreOutlets tag n) s = .next { t with tp := replied tag 0x50 .done [] s.tp }) ∧
        ((s.tenant n).slot = .empty → (s.esc n).shedOrder ≠ [] → ∃ u t,
          OneEsc n
            { s.esc n with
              stage := .restoring, failed := [], cursor := (s.esc n).shedOrder.getLast?, awaiting := none
              tallies := some { confirmed := 0, alreadyOn := 0, atLimit := 0 } } s u ∧
          OneTenant n { s.tenant n with slot := .restoreOutlets tag } u t ∧
          exec (.restoreOutlets tag n) s = .next { t with tp := replied tag 0x50 .accepted [] s.tp })))

/-- The shed list holds the outlets BOUND to the tenant alone with priority 1 to 7, in shed order, and the candidate is its first outlet that
is ON, unmarked and not failed. -/
def Obligations.ShedListIsInShedOrder : Prop :=
  ∀ (n : Nat) (s : State),
    (∀ x, x ∈ shedList n s ↔ x ∈ s.ot.outlets ∧ Sheddable n x.2) ∧ (shedList n s).Pairwise ShedsBefore ∧
    (candidate n s = none ↔
      ∀ x ∈ shedList n s, ¬ (x.2.switchState = .on ∧ x.2.shedMark = false ∧ { head := x.1 / 48, outlet := x.1 % 48 } ∉ (s.esc n).failed)) ∧
    (∀ key, candidate n s = some key → ∃ before x after, shedList n s = before ++ x :: after ∧ x.1 = key ∧ x.2.switchState = .on ∧
      x.2.shedMark = false ∧ { head := key / 48, outlet := key % 48 } ∉ (s.esc n).failed ∧
      ∀ y ∈ before, ¬ (y.2.switchState = .on ∧ y.2.shedMark = false ∧ { head := y.1 / 48, outlet := y.1 % 48 } ∉ (s.esc n).failed))

/-- The SHEDDING step takes the first case that applies: relieved, an awaiting outlet, a candidate, exhausted. The relief feeds are the offending
feeds that are evaluated, or every evaluated feed when there is none. That a switch phase left with nothing to send ends at once is the
model's choice (log entry 14). -/
def Obligations.SheddingStepTakesTheFirstCase : Prop :=
  (∀ (r : Tenant) (handed : List HandedFeed),
    ((∃ x ∈ handed, Offending r x) → ∀ x, x ∈ reliefFeeds r handed ↔ x ∈ handed ∧ Offending r x) ∧
    ((∀ x ∈ handed, ¬ Offending r x) → reliefFeeds r handed = handed)) ∧
  (∀ (n : Nat) (handed : List HandedFeed) (s : State),
    (Relieved n handed s → ShedHeld .shedSettled n s (sheddingStep n handed s)) ∧
    (∀ w, ¬ Relieved n handed s → (s.esc n).awaiting = some w → (s.outlet (w.addr.head * 48 + w.addr.outlet)).shedMark = true →
      (s.outlet (w.addr.head * 48 + w.addr.outlet)).switchState ≠ .off → w.age + 1 < 3 →
      OneEsc n { s.esc n with awaiting := some { w with age := w.age + 1 } } s (sheddingStep n handed s)) ∧
    (∀ w, ¬ Relieved n handed s → (s.esc n).awaiting = some w → (s.outlet (w.addr.head * 48 + w.addr.outlet)).shedMark = true →
      (s.outlet (w.addr.head * 48 + w.addr.outlet)).switchState ≠ .off → 3 ≤ w.age + 1 →
      ∃ u, OutletFailed n w.addr s u ∧ sheddingStep n handed s = chooseCandidate n handed u) ∧
    (∀ w, ¬ Relieved n handed s → (s.esc n).awaiting = some w →
      ((s.outlet (w.addr.head * 48 + w.addr.outlet)).shedMark = false ∨
        (s.outlet (w.addr.head * 48 + w.addr.outlet)).switchState = .off) →
      ∃ u, OneEsc n { s.esc n with awaiting := none } s u ∧ sheddingStep n handed s = chooseCandidate n handed u) ∧
    (¬ Relieved n handed s → (s.esc n).awaiting = none → sheddingStep n handed s = chooseCandidate n handed s) ∧
    chooseCandidate n [] s = s ∧
    (handed ≠ [] → candidate n s = none → ShedHeld .shedExhausted n s (chooseCandidate n handed s)) ∧
    (∀ key e, handed ≠ [] → candidate n s = some key →
      e = { addr := { head := key / 48, outlet := key % 48 }, direction := .off, tenant := n } →
      (addAnswer s.mlc.switchQueue e = .refused → chooseCandidate n handed s = s) ∧
      (addAnswer s.mlc.switchQueue e ≠ .refused → ∃ t, chooseCandidate n handed s = t ∧
        t = { addRequest e s with ot := t.ot, es := t.es, tl := t.tl } ∧
        t.outlet key = { s.outlet key with shedMark := true } ∧ (∀ j, j ≠ key → t.outlet j = s.outlet j) ∧
        t.esc n =
          { s.esc n with
            shedOrder := (s.esc n).shedOrder ++ [e.addr], awaiting := some { addr := e.addr, direction := .off, age := 0 } } ∧
        (∀ m, m ≠ n → t.esc m = s.esc m ∧ t.tenant m = s.tenant m) ∧
        t.tenant n =
          { s.tenant n with
            burst := { (s.tenant n).burst with breach := (s.tenant n).burst.breach.map fun b => { b with shed := true } }
            demand := { (s.tenant n).demand with breach := (s.tenant n).demand.breach.map fun b => { b with shed := true } } })))

/-- ARM_EXPIRY, SHED_FAILED and RESTORE_LIMIT: each is the next close when that close can be taken and the stage step it names is due in it, the
one stage step of that settle, and nothing otherwise (log entries 1, 8; 17 for the order within the close). The escalation step of a settle: a trigger in IDLE applies the action,
then the stage has its step, but for a stage just ARMED; ARMED counts down, SHED_HOLD relapses or goes IDLE, RESTORING judges its outlet and
goes on; a restore that goes on switches the newest outlet of the shed order on, or ends. A HELD or CLOSING tenant has the RESTORING step alone. -/
def Obligations.EscalationStepsOfTheTable : Prop :=
  (∀ (n : Nat) (handed : List HandedFeed) (s : State),
    (∀ k x after u, Settling s → StageReached n s k x after handed u → (u.tenant n).state = .active → (u.esc n).stage = .armed →
      (u.esc n).countdown = some 1 → ¬ BothClear n u →
      ∃ v t, SheddingEntered n u v ∧ CloseEnds n k x after (sheddingStep n handed v) t ∧
        exec (.armExpiry n handed) s = .next t ∧ exec .close s = .next t) ∧
    ((¬ Settling s ∨ ∀ k x after u, StageReached n s k x after handed u → (u.tenant n).state ≠ .active ∨ (u.esc n).stage ≠ .armed ∨
        (u.esc n).countdown ≠ some 1 ∨ BothClear n u) →
      exec (.armExpiry n handed) s = .next s)) ∧
  (∀ (n : Nat) (handed : List HandedFeed) (s : State),
    (∀ k x after u w, Settling s → StageReached n s k x after handed u → (u.tenant n).state = .active → (u.esc n).stage = .shedding →
      ¬ Relieved n handed u → LimitReached n .off u w →
      ∃ v t, OutletFailed n w.addr u v ∧ CloseEnds n k x after (chooseCandidate n handed v) t ∧
        exec (.shedFailed n handed) s = .next t ∧ exec .close s = .next t) ∧
    ((¬ Settling s ∨ ∀ k x after u, StageReached n s k x after handed u → (u.tenant n).state ≠ .active ∨ (u.esc n).stage ≠ .shedding ∨
        Relieved n handed u ∨ ∀ w, ¬ LimitReached n .off u w) →
      exec (.shedFailed n handed) s = .next s)) ∧
  (∀ (n : Nat) (s : State),
    (∀ k x after handed u w, Settling s → StageReached n s k x after handed u → (u.esc n).stage = .restoring → LimitReached n .on u w →
      ∃ v t, Unmarked n w.addr (u.esc n).cursor (fun k => { k with atLimit := k.atLimit + 1 }) u v ∧
        CloseEnds n k x after (goOnNewest n v) t ∧ exec (.restoreLimit n) s = .next t ∧ exec .close s = .next t) ∧
    ((¬ Settling s ∨ ∀ k x after handed u, StageReached n s k x after handed u → (u.esc n).stage ≠ .restoring ∨
        ∀ w, ¬ LimitReached n .on u w) →
      exec (.restoreLimit n) s = .next s)) ∧
  (∀ (n : Nat) (s : State),
    (∀ before a, (s.esc n).shedOrder = before ++ [a] → a ∉ before → (s.outlet (a.head * 48 + a.outlet)).switchState = .on →
      ∃ u, Unmarked n a (some a) (fun k => { k with alreadyOn := k.alreadyOn + 1 }) s u ∧ goOnNewest n s = goOnNewest n u) ∧
    (∀ before a e, (s.esc n).shedOrder = before ++ [a] → (s.outlet (a.head * 48 + a.outlet)).switchState ≠ .on →
      e = { addr := a, direction := .on, tenant := n } →
      (addAnswer s.mlc.switchQueue e = .refused → OneEsc n { s.esc n with cursor := some a } s (goOnNewest n s)) ∧
      (addAnswer s.mlc.switchQueue e ≠ .refused →
        OneEsc n { s.esc n with cursor := some a, awaiting := some { addr := a, direction := .on, age := 0 } } (addRequest e s)
          (goOnNewest n s))) ∧
    (∀ tag k, (s.esc n).shedOrder = [] → (s.tenant n).slot = .restoreOutlets tag → (s.esc n).tallies = some k →
      (32 ≤ s.tp.completions.length → OneEsc n { s.esc n with cursor := none } s (goOnNewest n s)) ∧
      (s.tp.completions.length < 32 → ∃ u t,
        OneEsc n { s.esc n with stage := .idle, awaiting := none, cursor := none, tallies := none } s u ∧
        OneTenant n { s.tenant n with slot := .empty } u t ∧
        goOnNewest n s =
          { t with
            tp := { s.tp with
              completions := s.tp.completions ++
                [{ code := 0x50, tag := tag, outcome := if k.atLimit = 0 then .restored else .partialRestore
                   body := .restore n k }] } }))) ∧
  (∀ (k : LimitFields) (n : Nat) (x : Transition) (s : State),
    ((¬ Trigger k x ∨ (s.esc n).stage ≠ .idle ∨ k.action = .noticeOnly) → takeTransition k n s x = s) ∧
    (Trigger k x → (s.esc n).stage = .idle → k.action = .delayedShed →
      OneEsc n { s.esc n with stage := .armed, countdown := some (2 ^ (k.delayCode + 2)) } s (takeTransition k n s x)) ∧
    (Trigger k x → (s.esc n).stage = .idle → k.action = .immediateShed → SheddingEntered n s (takeTransition k n s x))) ∧
  (∀ (n : Nat) (handed : List HandedFeed) (s : State),
    (BothClear n s → OneEsc n { s.esc n with stage := .idle, countdown := none } s (armedStep n handed s)) ∧
    (∀ c, ¬ BothClear n s → (s.esc n).countdown = some c → 2 ≤ c →
      OneEsc n { s.esc n with countdown := some (c - 1) } s (armedStep n handed s)) ∧
    (∀ c, ¬ BothClear n s → (s.esc n).countdown = some c → c ≤ 1 →
      ∃ u, SheddingEntered n s u ∧ armedStep n handed s = sheddingStep n handed u) ∧
    (Over n handed s → (s.tenant n).demand.state = .breach →
      ∃ u, SheddingEntered n s u ∧ holdStep n handed s = sheddingStep n handed u) ∧
    ((¬ Over n handed s ∨ (s.tenant n).demand.state ≠ .breach) → BothClear n s → (s.esc n).shedOrder = [] →
      OneEsc n { s.esc n with stage := .idle } s (holdStep n handed s)) ∧
    ((¬ Over n handed s ∨ (s.tenant n).demand.state ≠ .breach) → ¬ (BothClear n s ∧ (s.esc n).shedOrder = []) →
      holdStep n handed s = s)) ∧
  (∀ (n : Nat) (s : State),
    ((s.esc n).awaiting = none → restoringStep n s = goOnNewest n s) ∧
    ∀ w o, (s.esc n).awaiting = some w → o = s.outlet (w.addr.head * 48 + w.addr.outlet) →
      (o.shedMark = false → ∃ u, OneEsc n { s.esc n with awaiting := none } s u ∧ restoringStep n s = goOnNewest n u) ∧
      (o.shedMark = true → o.switchState = .on →
        ∃ u, Unmarked n w.addr (s.esc n).cursor (fun k => { k with confirmed := k.confirmed + 1 }) s u ∧
          restoringStep n s = goOnNewest n u) ∧
      (o.shedMark = true → o.switchState ≠ .on → w.age + 1 < 3 →
        OneEsc n { s.esc n with awaiting := some { w with age := w.age + 1 } } s (restoringStep n s)) ∧
      (o.shedMark = true → o.switchState ≠ .on → 3 ≤ w.age + 1 →
        ∃ u, Unmarked n w.addr (s.esc n).cursor (fun k => { k with atLimit := k.atLimit + 1 }) s u ∧
          restoringStep n s = goOnNewest n u)) ∧
  (∀ (k : LimitFields) (n : Nat) (xs : List Transition) (handed : List HandedFeed) (s t : State), t = xs.foldl (takeTransition k n) s →
    ((s.esc n).stage ≠ .armed → (t.esc n).stage = .armed → esActive k n xs handed s = t) ∧
    ((s.esc n).stage = .armed → (t.esc n).stage = .armed → esActive k n xs handed s = armedStep n handed t) ∧
    ((t.esc n).stage = .idle → esActive k n xs handed s = t) ∧
    ((t.esc n).stage = .shedding → esActive k n xs handed s = sheddingStep n handed t) ∧
    ((t.esc n).stage = .shedHold → esActive k n xs handed s = holdStep n handed t) ∧
    ((t.esc n).stage = .restoring → esActive k n xs handed s = restoringStep n t) ∧
    ((s.esc n).stage = .restoring → esPassive n s = restoringStep n s) ∧
    ((s.esc n).stage ≠ .restoring → esPassive n s = s))

/-! ### Notices -/

/-- A latch: a cause not latched joins both parts and queues its source if it is masked and not queued; a latched one, and a latch for a
VACANT tenant, changes nothing. -/
def Obligations.LatchAddsACauseOnce : Prop :=
  (∀ (c : UnitCause) (s : State),
    latchUnit c s =
      { s with nu := { s.nu with unit := latchedSet c.bit s.nu.unit, queue := latchedQueue 0 c.bit s.nu.unit s.nu.queue } }) ∧
  (∀ (c : TenantCause) (n : Nat) (s : State),
    ((s.tenant n).state = .vacant → latchTenant c n s = s) ∧
    ((s.tenant n).state ≠ .vacant →
      latchTenant c n s = { s with nu := (latchTenant c n s).nu } ∧ (latchTenant c n s).nu.unit = s.nu.unit ∧
      (latchTenant c n s).causes n = latchedSet c.bit (s.causes n) ∧ (∀ m, m ≠ n → (latchTenant c n s).causes m = s.causes m) ∧
      (latchTenant c n s).nu.queue = latchedQueue n c.bit (s.causes n) s.nu.queue))

/-- ACK-NOTICE and SET-NOTICE-MASK: ranges and state; the named causes leave both parts, those whose condition holds are latched again, and
the source's place in the Notice Queue is judged anew. -/
def Obligations.AcknowledgementsAndTheUnitMask : Prop :=
  (∀ (tag : Byte) (src : Nat) (causes : BitVec 16) (s : State), AtOwner (.ackNotice tag src causes) s →
    ((127 < src ∨ src = 0 ∧ causes &&& 0xFC00 ≠ 0 ∨ src ≠ 0 ∧ causes &&& 0xF800 ≠ 0) →
      Refused (.ackNotice tag src causes) tag 0x60 .invalidParameter s) ∧
    (src ≠ 0 → src ≤ 127 → causes &&& 0xF800 = 0 → (s.tenant src).state = .vacant →
      Refused (.ackNotice tag src causes) tag 0x60 .incorrectState s) ∧
    (∀ c, src = 0 → causes &&& 0xFC00 = 0 → c = acknowledged s.nu.unit causes (unitRelatched causes s) →
      exec (.ackNotice tag src causes) s = .next
        { s with
          nu := { s.nu with unit := c, queue := requeued 0 c s.nu.queue }
          tp := replied tag 0x60 .done (be 2 c.latched.toNat) s.tp }) ∧
    (∀ c, src ≠ 0 → src ≤ 127 → causes &&& 0xF800 = 0 → (s.tenant src).state ≠ .vacant →
      c = acknowledged (s.causes src) causes (tenantRelatched src causes s) → ∃ t, exec (.ackNotice tag src causes) s = .next t ∧
        t = { s with nu := t.nu, tp := replied tag 0x60 .done (be 2 c.latched.toNat) s.tp } ∧ t.nu.unit = s.nu.unit ∧ t.causes src = c ∧
        (∀ m, m ≠ src → t.causes m = s.causes m) ∧ t.nu.queue = requeued src c s.nu.queue)) ∧
  (∀ (tag : Byte) (mask : BitVec 16) (s : State), AtOwner (.setNoticeMask tag mask) s →
    (mask &&& 0xFC00 ≠ 0 → Refused (.setNoticeMask tag mask) tag 0x61 .invalidParameter s) ∧
    (mask &&& 0xFC00 = 0 →
      exec (.setNoticeMask tag mask) s = .next
        { s with
          nu := { s.nu with
            unit := { s.nu.unit with mask := mask }, queue := requeued 0 { s.nu.unit with mask := mask } s.nu.queue }
          tp := replied tag 0x61 .done (be 2 s.nu.unit.mask.toNat) s.tp }))

/-! ### The trunk link -/

/-- TRUNK_FRAME, a whole frame: a failed check is TRUNK_CHECK; a unicast ORDER opens the window and, for this unit with the path free, takes
the path or is refused; a broadcast ORDER closes the window, and HALT and RESET-UNIT are handed over, or wait behind a unicast order with its
owner; an UP REPLY closes its window; every other frame is discarded. That a frame which fails its check leaves the open reply window as it is is
the model's choice (log entry 29), and so is what a broadcast HALT does to a round end, a close and a delivery (log entries 11, 24, 31) and what a
reset does to a delivery being taken (log entry 32). -/
def Obligations.TrunkFrameIsHandledByTheFirstCase : Prop :=
  ∀ (b0 kind tag len : Byte) (payload : List Byte) (first : Character) (rest chars : List Character) (bytes : List Byte)
    (s h : State), chars = first :: rest →
    s.tp.sending = .nothing → s.tp.rx = none → payload.length = len.toNat → bytes = bytesOf chars → h = heard s →
    ((bytes.length = payload.length + 6 ∧ bytes.take (payload.length + 4) = b0 :: kind :: tag :: len :: payload ∧
        (anyFramingError chars = true ∨ bytes ≠ withCrc16 (b0 :: kind :: tag :: len :: payload))) →
      exec (.trunkFrame first rest) s = .next (latchUnit .trunkCheck h)) ∧
    (bytes = withCrc16 (b0 :: kind :: tag :: len :: payload) → anyFramingError chars = false →
      (b0.getLsbD 7 = true → kind = 2 →
        (∀ w, s.tp.window = some w → w.addr = b0.extractLsb' 2 4 →
          exec (.trunkFrame first rest) s = .next { h with tp := { h.tp with window := none } }) ∧
        ((∀ w, s.tp.window = some w → w.addr ≠ b0.extractLsb' 2 4) → exec (.trunkFrame first rest) s = .next h)) ∧
      ((b0.getLsbD 7 = true ∧ kind ≠ 2 ∨ b0.getLsbD 7 = false ∧ kind ≠ 1) → exec (.trunkFrame first rest) s = .next h) ∧
      (b0.getLsbD 7 = false → kind = 1 → b0.getLsbD 6 = true →
        (∀ c, (payload = [0x12] ∧ c = .broadcastHalt ∨ ∃ x, payload = [0x02, x] ∧ c = .broadcastResetUnit x.toNat) →
          (¬ SomeAtOwner s → ∃ t, Handed c (heardBroadcast s) t ∧ exec (.trunkFrame first rest) s = .next t) ∧
          (SomeAtOwner s → exec (.trunkFrame first rest) s = .next
            { heardBroadcast s with tp := { (heardBroadcast s).tp with broadcasts := s.tp.broadcasts ++ [c] } })) ∧
        (payload ≠ [0x12] → (∀ x, payload ≠ [0x02, x]) → exec (.trunkFrame first rest) s = .next (heardBroadcast s))) ∧
      (∀ a, b0.getLsbD 7 = false → kind = 1 → b0.getLsbD 6 = false → a = b0.extractLsb' 2 4 →
        ((a ≠ s.tp.unitAddr ∨ s.tp.path ≠ .free) →
          exec (.trunkFrame first rest) s = .next { h with tp := { h.tp with window := some { addr := a, ticks := 0, own := false } } }) ∧
        (∀ w, a = s.tp.unitAddr → s.tp.path = .free → w = { h with tp := { h.tp with window := some { addr := a, ticks := 0, own := true } } } →
          (payload = [] → exec (.trunkFrame first rest) s = .next { w with tp := replied tag 0 .unknownOrder [] w.tp }) ∧
          (∀ code params, payload = code :: params → code.toNat ∉ orderCodes →
            exec (.trunkFrame first rest) s = .next { w with tp := replied tag code.toNat .unknownOrder [] w.tp }) ∧
          (∀ code params, payload = code :: params → code.toNat ∈ orderCodes → decodeOrder tag code.toNat params = none →
            exec (.trunkFrame first rest) s = .next { w with tp := replied tag code.toNat .invalidParameter [] w.tp }) ∧
          (∀ code params c, payload = code :: params → code.toNat ∈ orderCodes → decodeOrder tag code.toNat params = some c →
            exec (.trunkFrame first rest) s = .next { w with tp := { w.tp with path := .atOwner c } }))))

/-- TRUNK_RECEPTION_IDLE_END is a failed CRC check; REPLY_WINDOW_EXPIRY closes a window at its fifth tick; without a reception, or before that
tick, nothing happens, and nothing is received while the unit transmits (log entry 1). Characters are received one after the other: those
short of the length in the fourth byte are held, and frames received in one command are those of two. A character is a start bit 0, the byte
from its most significant bit on, and a stop bit 1; a stop bit read as 0 is a framing error. Three clauses are the model's reading or choice:
that several frames of one command are taken character by character (log entry 10), that a reception that fails leaves the reply window as it
is (log entry 29), and that the start bit of a received character is not read again (log entry 30). -/
def Obligations.ReceptionsAndWindowsEnd : Prop :=
  (∀ s : State,
    (s.tp.sending = .nothing → s.tp.rx ≠ none → exec .trunkReceptionIdleEnd s = .next (latchUnit .trunkCheck (heard s))) ∧
    ((s.tp.sending ≠ .nothing ∨ s.tp.rx = none) → exec .trunkReceptionIdleEnd s = .next s) ∧
    (∀ w, s.tp.window = some w → 5 ≤ w.ticks → exec .replyWindowExpiry s = .next { s with tp := { s.tp with window := none } }) ∧
    (∀ w, s.tp.window = some w → w.ticks < 5 → exec .replyWindowExpiry s = .next s) ∧
    (s.tp.window = none → exec .replyWindowExpiry s = .next s) ∧
    (∀ first rest, s.tp.sending ≠ .nothing → exec (.trunkFrame first rest) s = .next s) ∧
    (∀ first rest chars held, chars = first :: rest → s.tp.sending = .nothing → held = s.tp.rx.getD [] →
      (∀ x y z len more, bytesOf (held ++ chars) = x :: y :: z :: len :: more → held.length + chars.length < 6 + len.toNat) →
      exec (.trunkFrame first rest) s = .next { s with tp := { s.tp with rx := some (held ++ chars), idleTicks := 0 } }) ∧
    (∀ first rest first' rest' t, s.tp.sending = .nothing → exec (.trunkFrame first rest) s = .next t →
      exec (.trunkFrame first (rest ++ first' :: rest')) s = exec (.trunkFrame first' rest') t)) ∧
  (∀ chars : List Character, bytesOf chars = chars.map (fun c => c.extractLsb' 1 8) ∧
    (anyFramingError chars = true ↔ ∃ c ∈ chars, c.getLsbD 0 = false)) ∧
  (∀ bytes : List Byte, bytesOf (sentCharacters bytes) = bytes ∧ anyFramingError (sentCharacters bytes) = false ∧
    lineLevels bytes = bytes.flatMap fun b =>
      [false, b.getLsbD 7, b.getLsbD 6, b.getLsbD 5, b.getLsbD 4, b.getLsbD 3, b.getLsbD 2, b.getLsbD 1, b.getLsbD 0, true])

/-- REPLY_START while the line is idle, at once for a prompt reply with no other order's window open, or after the gap; FRAME_TRANSMIT_END frees
the order path after a reply and the hand after a frame; ARBITRATION_LOST keeps the frame, the reply is prompt no more, and in the header
the winning frame is received (log entries 10, 18). Nothing happens otherwise (log entry 1). TK_DIR is high while a frame is sent, its characters
are those of the frame's bytes, the level TP puts on the pair is theirs at each bit time and 1 otherwise, and a 0 of any station is the line's (log
entry 7). -/
def Obligations.RepliesAndFramesAreSent : Prop :=
  (∀ (s : State) (r : Reply), s.tp.slot = some r → s.tp.sending = .nothing → s.tp.rx = none → (PromptNow s.tp ∨ GapOver s.tp) →
    exec .replyStart s = .next
      { s with
        tp := { s.tp with
          sending := .reply, idleTicks := 0
          lastSent := trunkBytes s.tp.unitAddr 2 r.tag ([b1 r.code, b1 (statusCode r.status)] ++ r.result) } }) ∧
  (∀ s : State, (s.tp.slot = none ∨ s.tp.sending ≠ .nothing ∨ s.tp.rx ≠ none ∨ ¬ PromptNow s.tp ∧ ¬ GapOver s.tp) →
    exec .replyStart s = .next s) ∧
  (∀ s : State,
    (s.tp.sending = .reply → s.tp.reset = none → exec .frameTransmitEnd s = .next { s with tp := replySent s.tp }) ∧
    (∀ f, s.tp.sending = .inHand → s.tp.inHand = some f → (∀ g, f ≠ .forward g .first) →
      exec .frameTransmitEnd s = .next { s with tp := { s.tp with sending := .nothing, idleTicks := 0, inHand := none } }) ∧
    (∀ g, s.tp.sending = .inHand → s.tp.inHand = some (.forward g .first) →
      exec .frameTransmitEnd s = .next
        { s with tp := { s.tp with sending := .nothing, idleTicks := 0, inHand := some (.forward g .second) } }) ∧
    (s.tp.sending = .nothing → exec .frameTransmitEnd s = .next s) ∧ (s.tkDir = true ↔ s.tp.sending ≠ .nothing)) ∧
  (∀ s : State,
    (s.tp.sending ≠ .nothing → s.tkCharacters = sentCharacters s.tp.lastSent ∧ ∀ bit, s.tkLevel bit = frameLevel s.tp.lastSent bit) ∧
    (s.tp.sending = .nothing → s.tkCharacters = [] ∧ ∀ bit, s.tkLevel bit = true) ∧
    ∀ others bit, s.tkLine others bit = false ↔ s.tkLevel bit = false ∨ others = false) ∧
  (∀ (s : State) (inHeader : Bool),
    (s.tp.sending ≠ .nothing → exec (.arbitrationLost inHeader) s = .next
      { s with
        tp := { s.tp with
          sending := .nothing, idleTicks := 0, rx := if inHeader then some [] else none
          prompt := if s.tp.sending = .reply then false else s.tp.prompt } }) ∧
    (s.tp.sending = .nothing → exec (.arbitrationLost inHeader) s = .next s))

/-- IDLE_GAP: with no reply waiting, the frame in hand starts, or the oldest of the first non-empty source: completions, notices, summaries,
forwarded frames, a copy of 32 entries or more in two parts. The bytes of each frame are written out. -/
def Obligations.ArbiterTakesTheFirstSource : Prop :=
  ∀ s : State,
    ((s.tp.slot ≠ none ∨ ¬ GapOver s.tp) → exec .idleGap s = .next s) ∧
    (s.tp.slot = none → GapOver s.tp →
      (∀ f, s.tp.inHand = some f → exec .idleGap s = .next { s with tp := started f s.tp }) ∧
      (s.tp.inHand = none →
        (∀ c rest, s.tp.completions = c :: rest →
          exec .idleGap s = .next { s with tp := started (.completion c) { s.tp with completions := rest } }) ∧
        (s.tp.completions = [] →
          (∀ rest, s.nu.queue = 0 :: rest →
            exec .idleGap s = .next
              { s with
                nu := { s.nu with queue := rest, unit := { s.nu.unit with unreported := 0 } }
                tp := started (.notice
                  { source := 0, period := s.ct.n, latched := s.nu.unit.latched, unreported := s.nu.unit.unreported
                    resetCause := some s.tp.resetCause }) s.tp }) ∧
          (∀ n rest, n ≠ 0 → s.nu.queue = n :: rest → ∃ t, exec .idleGap s = .next t ∧
            t =
              { s with
                nu := { s.nu with queue := rest, tenants := t.nu.tenants }
                tp := started (.notice
                  { source := n, period := s.ct.n, latched := (s.causes n).latched, unreported := (s.causes n).unreported
                    resetCause := none }) s.tp } ∧
            t.causes n = { s.causes n with unreported := 0 } ∧ ∀ m, m ≠ n → t.causes m = s.causes m) ∧
          (s.nu.queue = [] →
            (∀ r rest, s.tp.summaries = r :: rest →
              exec .idleGap s = .next { s with tp := started (.summary r) { s.tp with summaries := rest } }) ∧
            (∀ f rest, s.tp.summaries = [] → s.tp.forwards = f :: rest →
              exec .idleGap s = .next
                { s with tp := started (.forward f (if 32 ≤ f.entries.length then .first else .whole)) { s.tp with forwards := rest } }) ∧
            (s.tp.summaries = [] → s.tp.forwards = [] → exec .idleGap s = .next s)))))

/-- IDENTIFY answers the identity and the counts in 23 bytes and changes nothing else. -/
def Obligations.IdentifyAnswersTheIdentity : Prop :=
  ∀ (tag : Byte) (s : State), AtOwner (.identify tag) s →
    exec (.identify tag) s = .next
      { s with
        tp := replied tag 0x01 .done
          ([0x0E, 0x51, 0x22, 0x70, 0x01] ++ [b1 s.tp.unitAddr.toNat] ++
            [match s.ct.runState with | .config => 0 | .running => 1 | .halted => 2] ++
            [match s.tp.resetCause with | .powerOn => 1 | .resetPin => 2 | .orderFull => 3 | .orderAccounts => 4] ++
            [if s.tp.service then 1 else 0] ++
            [b1 (s.mlc.heads.filter fun p => decide (p.2.state = .present)).length] ++ be 2 s.ot.boundCount ++ [b1 s.tl.count] ++
            be 6 s.oae.unattributed ++ be 2 s.tp.dropCount ++ be 2 s.tp.lockMap.toNat) s.tp }

/-- LOCK-GROUPS sets the named bits; UNLOCK-GROUPS checks the service flag first, and clears the named bits or is refused. -/
def Obligations.LockAndUnlockGroups : Prop :=
  (∀ (tag : Byte) (mask : BitVec 16) (s : State), AtOwner (.lockGroups tag mask) s →
    exec (.lockGroups tag mask) s = .next
      { s with
        tp := replied tag 0x03 .done (be 2 (s.tp.lockMap ||| mask).toNat) { s.tp with lockMap := s.tp.lockMap ||| mask } }) ∧
  (∀ (tag : Byte) (mask : BitVec 16) (s : State), AtOwner (.unlockGroups tag mask) s →
    (s.tp.service = false → Refused (.unlockGroups tag mask) tag 0x04 .locked s) ∧
    (s.tp.service = true →
      exec (.unlockGroups tag mask) s = .next
        { s with
          tp := replied tag 0x04 .done (be 2 (s.tp.lockMap &&& ~~~mask).toNat) { s.tp with lockMap := s.tp.lockMap &&& ~~~mask } }))

/-! ### The tables and the invariant -/

/-- A sparse table reads back what was written, at its key alone, and writing keeps the canonical form (log entry 15). -/
def Obligations.TablesReadBackAndStayCanonical : Prop :=
  ∀ (d : Outlet) (t : Table Outlet) (k : Nat) (v : Outlet),
    tableGet d (tableSet d t k v) k = v ∧ (∀ j, j ≠ k → tableGet d (tableSet d t k v) j = tableGet d t j) ∧
    (tableWf d t → tableWf d (tableSet d t k v)) ∧ tableWf d ([] : Table Outlet) ∧
    (∀ u : Table Outlet, tableWf d t → tableWf d u → (∀ j, tableGet d t j = tableGet d u j) → t = u)

/-- The invariant holds after power-on. -/
def Obligations.InvariantHoldsAfterPowerOn : Prop := BlockInv State.reset

/-- Every step keeps the invariant of the cadence, of the feed states, of the queues and of the order path, and takes one command. -/
def Obligations.EveryStepKeepsTheInvariant : Prop :=
  ∀ s t : State, BlockInv s → step s = .next t → BlockInv t ∧ t.pending = s.pending.tail

/-! ### The steps of a settle -/

/-- The settle of a tenant that is not VACANT under its contract, step by step: the pending contract with its mask, the lifetime energies with
ACCUMULATOR_SATURATED, the failover allowance with its cause, then for an ACTIVE tenant the burst check, the bucket with the demand evaluation
and the escalation step on their transitions, for a HELD or CLOSING one the bucket alone and a restore that goes on, then the summary, the last
settled period and the slot. That the last settled period is written before the slot is served is the model's reading (log entry 17). -/
def Obligations.SettleRunsItsStepsInOrder : Prop :=
  (∀ (s u v w y : State) (x : IntervalTotal) (k : Contract) (a : AllowanceStep) (fs : List FeedLimit) (n : Nat), n = x.tenant →
    (s.tenant n).state ≠ .vacant → (s.tenant n).contract.map (fun c => { c with limits := (s.tenant n).pendingLimits.getD c.limits }) = some k →
    u = addLifetime x (applyPending n s) → a = allowanceStep k.window (u.tenant n) x.feedA x.feedB → v = applyAllowance n a u →
    fs = feedLimits k a.holds →
    ((s.tenant n).state = .active →
      w = (bucketStep true (decide (a.holds = .both)) k x fs (burstCheck k x fs v).1).1 →
      y = esActive k.limits n ((burstCheck k x fs v).2 ++ (bucketStep true (decide (a.holds = .both)) k x fs (burstCheck k x fs v).1).2)
        (handedFeeds k x fs) w →
      ∃ z, OneTenant n { (summaryStep k x y).tenant n with lastSettled := some x.period } (summaryStep k x y) z ∧
        settle s x = slotStep n x.period z) ∧
    ((s.tenant n).state ≠ .active →
      w = (bucketStep false (decide (a.holds = .both)) k x [] v).1 → y = esPassive n w →
      ∃ z, OneTenant n { (summaryStep k x y).tenant n with lastSettled := some x.period } (summaryStep k x y) z ∧
        settle s x = slotStep n x.period z)) ∧
  (∀ (n : Nat) (s : State),
    ((s.tenant n).pendingLimits = none → applyPending n s = s) ∧
    (∀ k p, (s.tenant n).contract = some k → (s.tenant n).pendingLimits = some p → ∃ t nu, TenantMasked n p.mask s nu ∧
      OneTenant n { s.tenant n with contract := some { k with limits := p }, pendingLimits := none } s t ∧
      applyPending n s = { t with nu := nu })) ∧
  (∀ (x : IntervalTotal) (s : State), ∃ t,
    OneTenant x.tenant
      { s.tenant x.tenant with
        lifetimeA := min 281474976710655 ((s.tenant x.tenant).lifetimeA + x.energyA)
        lifetimeB := min 281474976710655 ((s.tenant x.tenant).lifetimeB + x.energyB) } s t ∧
    addLifetime x s =
      (if (s.tenant x.tenant).lifetimeA < 281474976710655 ∧ 281474976710655 ≤ (s.tenant x.tenant).lifetimeA + x.energyA ∨
          (s.tenant x.tenant).lifetimeB < 281474976710655 ∧ 281474976710655 ≤ (s.tenant x.tenant).lifetimeB + x.energyB then
        latchTenant .accumulatorSaturated x.tenant t else t)) ∧
  (∀ (n : Nat) (a : AllowanceStep) (s : State), ∃ t,
    OneTenant n { s.tenant n with coveredFeed := a.coveredFeed, allowanceTail := a.tail, allowanceHeld := a.held } s t ∧
    applyAllowance n a s = (if a.held then latchTenant .failoverAllowance n t else t)) ∧
  (∀ (k : Contract) (x : IntervalTotal) (fs : List FeedLimit),
    handedFeeds k x fs = fs.map fun f =>
      { scope := f.scope
        value := match f.scope with
          | .pooled => min 16777215 (x.rateA + x.rateB)
          | .feedA => min 16777215 x.rateA
          | .feedB => min 16777215 x.rateB
        limit := f.limit, exit := f.limit * (1024 - k.limits.hysteresis) / 1024 })
end

