-- ==== Sys2Proof/Laws/State.lean ====
section
/-! SUPPORT. What each named update of the state writes and what it leaves, one lemma per field. -/

namespace Sys2Proof.Machine

variable (s : State)

@[simp] theorem State.onCt_ct (f : CadenceTimer → CadenceTimer) : (s.onCt f).ct = f s.ct := rfl
@[simp] theorem State.onCt_mlc (f : CadenceTimer → CadenceTimer) : (s.onCt f).mlc = s.mlc := rfl
@[simp] theorem State.onCt_ot (f : CadenceTimer → CadenceTimer) : (s.onCt f).ot = s.ot := rfl
@[simp] theorem State.onCt_oae (f : CadenceTimer → CadenceTimer) : (s.onCt f).oae = s.oae := rfl
@[simp] theorem State.onCt_fm (f : CadenceTimer → CadenceTimer) : (s.onCt f).fm = s.fm := rfl
@[simp] theorem State.onCt_tl (f : CadenceTimer → CadenceTimer) : (s.onCt f).tl = s.tl := rfl
@[simp] theorem State.onCt_es (f : CadenceTimer → CadenceTimer) : (s.onCt f).es = s.es := rfl
@[simp] theorem State.onCt_nu (f : CadenceTimer → CadenceTimer) : (s.onCt f).nu = s.nu := rfl
@[simp] theorem State.onCt_tp (f : CadenceTimer → CadenceTimer) : (s.onCt f).tp = s.tp := rfl
@[simp] theorem State.onCt_pending (f : CadenceTimer → CadenceTimer) : (s.onCt f).pending = s.pending := rfl

@[simp] theorem State.onMlc_ct (f : MeterLink → MeterLink) : (s.onMlc f).ct = s.ct := rfl
@[simp] theorem State.onMlc_mlc (f : MeterLink → MeterLink) : (s.onMlc f).mlc = f s.mlc := rfl
@[simp] theorem State.onMlc_ot (f : MeterLink → MeterLink) : (s.onMlc f).ot = s.ot := rfl
@[simp] theorem State.onMlc_oae (f : MeterLink → MeterLink) : (s.onMlc f).oae = s.oae := rfl
@[simp] theorem State.onMlc_fm (f : MeterLink → MeterLink) : (s.onMlc f).fm = s.fm := rfl
@[simp] theorem State.onMlc_tl (f : MeterLink → MeterLink) : (s.onMlc f).tl = s.tl := rfl
@[simp] theorem State.onMlc_es (f : MeterLink → MeterLink) : (s.onMlc f).es = s.es := rfl
@[simp] theorem State.onMlc_nu (f : MeterLink → MeterLink) : (s.onMlc f).nu = s.nu := rfl
@[simp] theorem State.onMlc_tp (f : MeterLink → MeterLink) : (s.onMlc f).tp = s.tp := rfl
@[simp] theorem State.onMlc_pending (f : MeterLink → MeterLink) : (s.onMlc f).pending = s.pending := rfl

@[simp] theorem State.onOt_ct (f : OutletTable → OutletTable) : (s.onOt f).ct = s.ct := rfl
@[simp] theorem State.onOt_mlc (f : OutletTable → OutletTable) : (s.onOt f).mlc = s.mlc := rfl
@[simp] theorem State.onOt_ot (f : OutletTable → OutletTable) : (s.onOt f).ot = f s.ot := rfl
@[simp] theorem State.onOt_oae (f : OutletTable → OutletTable) : (s.onOt f).oae = s.oae := rfl
@[simp] theorem State.onOt_fm (f : OutletTable → OutletTable) : (s.onOt f).fm = s.fm := rfl
@[simp] theorem State.onOt_tl (f : OutletTable → OutletTable) : (s.onOt f).tl = s.tl := rfl
@[simp] theorem State.onOt_es (f : OutletTable → OutletTable) : (s.onOt f).es = s.es := rfl
@[simp] theorem State.onOt_nu (f : OutletTable → OutletTable) : (s.onOt f).nu = s.nu := rfl
@[simp] theorem State.onOt_tp (f : OutletTable → OutletTable) : (s.onOt f).tp = s.tp := rfl
@[simp] theorem State.onOt_pending (f : OutletTable → OutletTable) : (s.onOt f).pending = s.pending := rfl

@[simp] theorem State.onOae_ct (f : AttributionEngine → AttributionEngine) : (s.onOae f).ct = s.ct := rfl
@[simp] theorem State.onOae_mlc (f : AttributionEngine → AttributionEngine) : (s.onOae f).mlc = s.mlc := rfl
@[simp] theorem State.onOae_ot (f : AttributionEngine → AttributionEngine) : (s.onOae f).ot = s.ot := rfl
@[simp] theorem State.onOae_oae (f : AttributionEngine → AttributionEngine) : (s.onOae f).oae = f s.oae := rfl
@[simp] theorem State.onOae_fm (f : AttributionEngine → AttributionEngine) : (s.onOae f).fm = s.fm := rfl
@[simp] theorem State.onOae_tl (f : AttributionEngine → AttributionEngine) : (s.onOae f).tl = s.tl := rfl
@[simp] theorem State.onOae_es (f : AttributionEngine → AttributionEngine) : (s.onOae f).es = s.es := rfl
@[simp] theorem State.onOae_nu (f : AttributionEngine → AttributionEngine) : (s.onOae f).nu = s.nu := rfl
@[simp] theorem State.onOae_tp (f : AttributionEngine → AttributionEngine) : (s.onOae f).tp = s.tp := rfl
@[simp] theorem State.onOae_pending (f : AttributionEngine → AttributionEngine) : (s.onOae f).pending = s.pending := rfl

@[simp] theorem State.onFm_ct (f : FeedMonitor → FeedMonitor) : (s.onFm f).ct = s.ct := rfl
@[simp] theorem State.onFm_mlc (f : FeedMonitor → FeedMonitor) : (s.onFm f).mlc = s.mlc := rfl
@[simp] theorem State.onFm_ot (f : FeedMonitor → FeedMonitor) : (s.onFm f).ot = s.ot := rfl
@[simp] theorem State.onFm_oae (f : FeedMonitor → FeedMonitor) : (s.onFm f).oae = s.oae := rfl
@[simp] theorem State.onFm_fm (f : FeedMonitor → FeedMonitor) : (s.onFm f).fm = f s.fm := rfl
@[simp] theorem State.onFm_tl (f : FeedMonitor → FeedMonitor) : (s.onFm f).tl = s.tl := rfl
@[simp] theorem State.onFm_es (f : FeedMonitor → FeedMonitor) : (s.onFm f).es = s.es := rfl
@[simp] theorem State.onFm_nu (f : FeedMonitor → FeedMonitor) : (s.onFm f).nu = s.nu := rfl
@[simp] theorem State.onFm_tp (f : FeedMonitor → FeedMonitor) : (s.onFm f).tp = s.tp := rfl
@[simp] theorem State.onFm_pending (f : FeedMonitor → FeedMonitor) : (s.onFm f).pending = s.pending := rfl

@[simp] theorem State.onTl_ct (f : Ledger → Ledger) : (s.onTl f).ct = s.ct := rfl
@[simp] theorem State.onTl_mlc (f : Ledger → Ledger) : (s.onTl f).mlc = s.mlc := rfl
@[simp] theorem State.onTl_ot (f : Ledger → Ledger) : (s.onTl f).ot = s.ot := rfl
@[simp] theorem State.onTl_oae (f : Ledger → Ledger) : (s.onTl f).oae = s.oae := rfl
@[simp] theorem State.onTl_fm (f : Ledger → Ledger) : (s.onTl f).fm = s.fm := rfl
@[simp] theorem State.onTl_tl (f : Ledger → Ledger) : (s.onTl f).tl = f s.tl := rfl
@[simp] theorem State.onTl_es (f : Ledger → Ledger) : (s.onTl f).es = s.es := rfl
@[simp] theorem State.onTl_nu (f : Ledger → Ledger) : (s.onTl f).nu = s.nu := rfl
@[simp] theorem State.onTl_tp (f : Ledger → Ledger) : (s.onTl f).tp = s.tp := rfl
@[simp] theorem State.onTl_pending (f : Ledger → Ledger) : (s.onTl f).pending = s.pending := rfl

@[simp] theorem State.onEs_ct (f : Sequencer → Sequencer) : (s.onEs f).ct = s.ct := rfl
@[simp] theorem State.onEs_mlc (f : Sequencer → Sequencer) : (s.onEs f).mlc = s.mlc := rfl
@[simp] theorem State.onEs_ot (f : Sequencer → Sequencer) : (s.onEs f).ot = s.ot := rfl
@[simp] theorem State.onEs_oae (f : Sequencer → Sequencer) : (s.onEs f).oae = s.oae := rfl
@[simp] theorem State.onEs_fm (f : Sequencer → Sequencer) : (s.onEs f).fm = s.fm := rfl
@[simp] theorem State.onEs_tl (f : Sequencer → Sequencer) : (s.onEs f).tl = s.tl := rfl
@[simp] theorem State.onEs_es (f : Sequencer → Sequencer) : (s.onEs f).es = f s.es := rfl
@[simp] theorem State.onEs_nu (f : Sequencer → Sequencer) : (s.onEs f).nu = s.nu := rfl
@[simp] theorem State.onEs_tp (f : Sequencer → Sequencer) : (s.onEs f).tp = s.tp := rfl
@[simp] theorem State.onEs_pending (f : Sequencer → Sequencer) : (s.onEs f).pending = s.pending := rfl

@[simp] theorem State.onNu_ct (f : NoticeUnit → NoticeUnit) : (s.onNu f).ct = s.ct := rfl
@[simp] theorem State.onNu_mlc (f : NoticeUnit → NoticeUnit) : (s.onNu f).mlc = s.mlc := rfl
@[simp] theorem State.onNu_ot (f : NoticeUnit → NoticeUnit) : (s.onNu f).ot = s.ot := rfl
@[simp] theorem State.onNu_oae (f : NoticeUnit → NoticeUnit) : (s.onNu f).oae = s.oae := rfl
@[simp] theorem State.onNu_fm (f : NoticeUnit → NoticeUnit) : (s.onNu f).fm = s.fm := rfl
@[simp] theorem State.onNu_tl (f : NoticeUnit → NoticeUnit) : (s.onNu f).tl = s.tl := rfl
@[simp] theorem State.onNu_es (f : NoticeUnit → NoticeUnit) : (s.onNu f).es = s.es := rfl
@[simp] theorem State.onNu_nu (f : NoticeUnit → NoticeUnit) : (s.onNu f).nu = f s.nu := rfl
@[simp] theorem State.onNu_tp (f : NoticeUnit → NoticeUnit) : (s.onNu f).tp = s.tp := rfl
@[simp] theorem State.onNu_pending (f : NoticeUnit → NoticeUnit) : (s.onNu f).pending = s.pending := rfl

@[simp] theorem State.onTp_ct (f : TrunkPort → TrunkPort) : (s.onTp f).ct = s.ct := rfl
@[simp] theorem State.onTp_mlc (f : TrunkPort → TrunkPort) : (s.onTp f).mlc = s.mlc := rfl
@[simp] theorem State.onTp_ot (f : TrunkPort → TrunkPort) : (s.onTp f).ot = s.ot := rfl
@[simp] theorem State.onTp_oae (f : TrunkPort → TrunkPort) : (s.onTp f).oae = s.oae := rfl
@[simp] theorem State.onTp_fm (f : TrunkPort → TrunkPort) : (s.onTp f).fm = s.fm := rfl
@[simp] theorem State.onTp_tl (f : TrunkPort → TrunkPort) : (s.onTp f).tl = s.tl := rfl
@[simp] theorem State.onTp_es (f : TrunkPort → TrunkPort) : (s.onTp f).es = s.es := rfl
@[simp] theorem State.onTp_nu (f : TrunkPort → TrunkPort) : (s.onTp f).nu = s.nu := rfl
@[simp] theorem State.onTp_tp (f : TrunkPort → TrunkPort) : (s.onTp f).tp = f s.tp := rfl
@[simp] theorem State.onTp_pending (f : TrunkPort → TrunkPort) : (s.onTp f).pending = s.pending := rfl

@[simp] theorem State.setHead_ct (k : Nat) (v : HeadEntry) : (s.setHead k v).ct = s.ct := rfl
@[simp] theorem State.setHead_ot (k : Nat) (v : HeadEntry) : (s.setHead k v).ot = s.ot := rfl
@[simp] theorem State.setHead_oae (k : Nat) (v : HeadEntry) : (s.setHead k v).oae = s.oae := rfl
@[simp] theorem State.setHead_fm (k : Nat) (v : HeadEntry) : (s.setHead k v).fm = s.fm := rfl
@[simp] theorem State.setHead_tl (k : Nat) (v : HeadEntry) : (s.setHead k v).tl = s.tl := rfl
@[simp] theorem State.setHead_es (k : Nat) (v : HeadEntry) : (s.setHead k v).es = s.es := rfl
@[simp] theorem State.setHead_nu (k : Nat) (v : HeadEntry) : (s.setHead k v).nu = s.nu := rfl
@[simp] theorem State.setHead_tp (k : Nat) (v : HeadEntry) : (s.setHead k v).tp = s.tp := rfl
@[simp] theorem State.setHead_pending (k : Nat) (v : HeadEntry) : (s.setHead k v).pending = s.pending := rfl

@[simp] theorem State.setMark_ct (k : Nat) (v : AddrMark) : (s.setMark k v).ct = s.ct := rfl
@[simp] theorem State.setMark_ot (k : Nat) (v : AddrMark) : (s.setMark k v).ot = s.ot := rfl
@[simp] theorem State.setMark_oae (k : Nat) (v : AddrMark) : (s.setMark k v).oae = s.oae := rfl
@[simp] theorem State.setMark_fm (k : Nat) (v : AddrMark) : (s.setMark k v).fm = s.fm := rfl
@[simp] theorem State.setMark_tl (k : Nat) (v : AddrMark) : (s.setMark k v).tl = s.tl := rfl
@[simp] theorem State.setMark_es (k : Nat) (v : AddrMark) : (s.setMark k v).es = s.es := rfl
@[simp] theorem State.setMark_nu (k : Nat) (v : AddrMark) : (s.setMark k v).nu = s.nu := rfl
@[simp] theorem State.setMark_tp (k : Nat) (v : AddrMark) : (s.setMark k v).tp = s.tp := rfl
@[simp] theorem State.setMark_pending (k : Nat) (v : AddrMark) : (s.setMark k v).pending = s.pending := rfl

@[simp] theorem State.setOutlet_ct (k : Nat) (v : Outlet) : (s.setOutlet k v).ct = s.ct := rfl
@[simp] theorem State.setOutlet_mlc (k : Nat) (v : Outlet) : (s.setOutlet k v).mlc = s.mlc := rfl
@[simp] theorem State.setOutlet_oae (k : Nat) (v : Outlet) : (s.setOutlet k v).oae = s.oae := rfl
@[simp] theorem State.setOutlet_fm (k : Nat) (v : Outlet) : (s.setOutlet k v).fm = s.fm := rfl
@[simp] theorem State.setOutlet_tl (k : Nat) (v : Outlet) : (s.setOutlet k v).tl = s.tl := rfl
@[simp] theorem State.setOutlet_es (k : Nat) (v : Outlet) : (s.setOutlet k v).es = s.es := rfl
@[simp] theorem State.setOutlet_nu (k : Nat) (v : Outlet) : (s.setOutlet k v).nu = s.nu := rfl
@[simp] theorem State.setOutlet_tp (k : Nat) (v : Outlet) : (s.setOutlet k v).tp = s.tp := rfl
@[simp] theorem State.setOutlet_pending (k : Nat) (v : Outlet) : (s.setOutlet k v).pending = s.pending := rfl

@[simp] theorem State.setAccount_ct (k : Nat) (v : Account) : (s.setAccount k v).ct = s.ct := rfl
@[simp] theorem State.setAccount_mlc (k : Nat) (v : Account) : (s.setAccount k v).mlc = s.mlc := rfl
@[simp] theorem State.setAccount_ot (k : Nat) (v : Account) : (s.setAccount k v).ot = s.ot := rfl
@[simp] theorem State.setAccount_fm (k : Nat) (v : Account) : (s.setAccount k v).fm = s.fm := rfl
@[simp] theorem State.setAccount_tl (k : Nat) (v : Account) : (s.setAccount k v).tl = s.tl := rfl
@[simp] theorem State.setAccount_es (k : Nat) (v : Account) : (s.setAccount k v).es = s.es := rfl
@[simp] theorem State.setAccount_nu (k : Nat) (v : Account) : (s.setAccount k v).nu = s.nu := rfl
@[simp] theorem State.setAccount_tp (k : Nat) (v : Account) : (s.setAccount k v).tp = s.tp := rfl
@[simp] theorem State.setAccount_pending (k : Nat) (v : Account) : (s.setAccount k v).pending = s.pending := rfl

@[simp] theorem State.setTenant_ct (k : Nat) (v : Tenant) : (s.setTenant k v).ct = s.ct := rfl
@[simp] theorem State.setTenant_mlc (k : Nat) (v : Tenant) : (s.setTenant k v).mlc = s.mlc := rfl
@[simp] theorem State.setTenant_ot (k : Nat) (v : Tenant) : (s.setTenant k v).ot = s.ot := rfl
@[simp] theorem State.setTenant_oae (k : Nat) (v : Tenant) : (s.setTenant k v).oae = s.oae := rfl
@[simp] theorem State.setTenant_fm (k : Nat) (v : Tenant) : (s.setTenant k v).fm = s.fm := rfl
@[simp] theorem State.setTenant_es (k : Nat) (v : Tenant) : (s.setTenant k v).es = s.es := rfl
@[simp] theorem State.setTenant_nu (k : Nat) (v : Tenant) : (s.setTenant k v).nu = s.nu := rfl
@[simp] theorem State.setTenant_tp (k : Nat) (v : Tenant) : (s.setTenant k v).tp = s.tp := rfl
@[simp] theorem State.setTenant_pending (k : Nat) (v : Tenant) : (s.setTenant k v).pending = s.pending := rfl

@[simp] theorem State.setEsc_ct (k : Nat) (v : Escalation) : (s.setEsc k v).ct = s.ct := rfl
@[simp] theorem State.setEsc_mlc (k : Nat) (v : Escalation) : (s.setEsc k v).mlc = s.mlc := rfl
@[simp] theorem State.setEsc_ot (k : Nat) (v : Escalation) : (s.setEsc k v).ot = s.ot := rfl
@[simp] theorem State.setEsc_oae (k : Nat) (v : Escalation) : (s.setEsc k v).oae = s.oae := rfl
@[simp] theorem State.setEsc_fm (k : Nat) (v : Escalation) : (s.setEsc k v).fm = s.fm := rfl
@[simp] theorem State.setEsc_tl (k : Nat) (v : Escalation) : (s.setEsc k v).tl = s.tl := rfl
@[simp] theorem State.setEsc_nu (k : Nat) (v : Escalation) : (s.setEsc k v).nu = s.nu := rfl
@[simp] theorem State.setEsc_tp (k : Nat) (v : Escalation) : (s.setEsc k v).tp = s.tp := rfl
@[simp] theorem State.setEsc_pending (k : Nat) (v : Escalation) : (s.setEsc k v).pending = s.pending := rfl

@[simp] theorem State.setCauses_ct (k : Nat) (v : CauseSet) : (s.setCauses k v).ct = s.ct := rfl
@[simp] theorem State.setCauses_mlc (k : Nat) (v : CauseSet) : (s.setCauses k v).mlc = s.mlc := rfl
@[simp] theorem State.setCauses_ot (k : Nat) (v : CauseSet) : (s.setCauses k v).ot = s.ot := rfl
@[simp] theorem State.setCauses_oae (k : Nat) (v : CauseSet) : (s.setCauses k v).oae = s.oae := rfl
@[simp] theorem State.setCauses_fm (k : Nat) (v : CauseSet) : (s.setCauses k v).fm = s.fm := rfl
@[simp] theorem State.setCauses_tl (k : Nat) (v : CauseSet) : (s.setCauses k v).tl = s.tl := rfl
@[simp] theorem State.setCauses_es (k : Nat) (v : CauseSet) : (s.setCauses k v).es = s.es := rfl
@[simp] theorem State.setCauses_tp (k : Nat) (v : CauseSet) : (s.setCauses k v).tp = s.tp := rfl
@[simp] theorem State.setCauses_pending (k : Nat) (v : CauseSet) : (s.setCauses k v).pending = s.pending := rfl

end Sys2Proof.Machine
end

