-- ==== Sys2Proof/Laws/Tables.lean ====
section
/-! SUPPORT. The sparse tables: what is read after a write, and that every table operation keeps the canonical form (log entry 15). -/

namespace Sys2Proof.Machine

section Tables

variable {α : Type}

theorem tableGet_tableErase_same (d : α) (t : Table α) (k : Nat) : tableGet d (tableErase k t) k = d := by
  induction t with
  | nil => rfl
  | cons p t ih =>
    by_cases h : p.1 = k <;> simp_all [tableErase, tableGet]

theorem tableGet_tableErase_other (d : α) (t : Table α) {k k' : Nat} (h : k ≠ k') :
    tableGet d (tableErase k t) k' = tableGet d t k' := by
  induction t with
  | nil => rfl
  | cons p t ih =>
    by_cases hp : p.1 = k
    · subst hp; simp_all [tableErase, tableGet]
    · simp_all [tableErase, tableGet]

theorem tableGet_tableInsert_same (d : α) (t : Table α) (k : Nat) (v : α) : tableGet d (tableInsert k v t) k = v := by
  induction t with
  | nil => simp [tableInsert, tableGet]
  | cons p t ih =>
    obtain ⟨k', v'⟩ := p
    simp only [tableInsert]
    split_ifs with h1 h2
    · simp [tableGet]
    · simp [tableGet]
    · rw [tableGet, if_neg (Ne.symm h2), ih]

theorem tableGet_tableInsert_other (d : α) (t : Table α) {k k' : Nat} (v : α) (h : k ≠ k') :
    tableGet d (tableInsert k v t) k' = tableGet d t k' := by
  induction t with
  | nil => simp [tableInsert, tableGet, h]
  | cons p t ih =>
    obtain ⟨j, w⟩ := p
    simp only [tableInsert]
    split_ifs with h1 h2
    · simp [tableGet, h]
    · subst h2; simp [tableGet, h]
    · simp only [tableGet, ih]

/-- A record written at a key is read back. -/
@[simp] theorem tableGet_tableSet_same [DecidableEq α] (d : α) (t : Table α) (k : Nat) (v : α) :
    tableGet d (tableSet d t k v) k = v := by
  unfold tableSet
  split_ifs with h
  · rw [tableGet_tableErase_same, h]
  · exact tableGet_tableInsert_same d t k v

/-- A write at a key leaves every other key. -/
theorem tableGet_tableSet_other [DecidableEq α] (d : α) (t : Table α) {k k' : Nat} (v : α) (h : k ≠ k') :
    tableGet d (tableSet d t k v) k' = tableGet d t k' := by
  unfold tableSet
  split_ifs
  · exact tableGet_tableErase_other d t h
  · exact tableGet_tableInsert_other d t v h

theorem mem_tableInsert {k : Nat} {v : α} {t : Table α} {p : Nat × α} (h : p ∈ tableInsert k v t) : p = (k, v) ∨ p ∈ t := by
  induction t with
  | nil => simpa [tableInsert] using h
  | cons q t ih =>
    obtain ⟨j, w⟩ := q
    simp only [tableInsert] at h
    split_ifs at h <;> simp only [List.mem_cons] at h ⊢
    · tauto
    · tauto
    · rcases h with h | h
      · tauto
      · rcases ih h with h | h <;> tauto

theorem tableInsert_sorted (k : Nat) (v : α) (t : Table α) (h : (t.map Prod.fst).Pairwise (· < ·)) :
    ((tableInsert k v t).map Prod.fst).Pairwise (· < ·) := by
  induction t with
  | nil => simp [tableInsert]
  | cons q t ih =>
    obtain ⟨j, w⟩ := q
    simp only [List.map_cons, List.pairwise_cons, List.mem_map] at h
    simp only [tableInsert]
    split_ifs with h1 h2
    · simp only [List.map_cons, List.pairwise_cons, List.mem_cons, List.mem_map]
      exact ⟨fun a ha => by
        rcases ha with rfl | ⟨p, hp, rfl⟩
        · exact h1
        · exact h1.trans (h.1 _ ⟨p, hp, rfl⟩), fun a ha => h.1 a ha, h.2⟩
    · subst h2
      simp only [List.map_cons, List.pairwise_cons, List.mem_map]
      exact h
    · simp only [List.map_cons, List.pairwise_cons, List.mem_map]
      refine ⟨fun a ha => ?_, ih h.2⟩
      obtain ⟨p, hp, rfl⟩ := ha
      rcases mem_tableInsert hp with rfl | hp
      · omega
      · exact h.1 _ ⟨p, hp, rfl⟩

/-- A write keeps the canonical form. -/
theorem tableWf_tableSet [DecidableEq α] (d : α) (t : Table α) (k : Nat) (v : α) (h : tableWf d t) : tableWf d (tableSet d t k v) := by
  unfold tableSet
  split_ifs with hv
  · exact ⟨h.1.sublist (List.filter_sublist.map _), fun p hp => h.2 p (List.mem_of_mem_filter hp)⟩
  · refine ⟨tableInsert_sorted k v t h.1, fun p hp => ?_⟩
    rcases mem_tableInsert hp with rfl | hp
    · exact hv
    · exact h.2 p hp

/-- A change of every listed record keeps the canonical form. -/
theorem tableWf_tableMap [DecidableEq α] (d : α) (f : Nat → α → α) (t : Table α) : tableWf d (tableMap d f t) := by
  induction t with
  | nil => exact ⟨List.Pairwise.nil, by simp [tableMap]⟩
  | cons p t ih => exact tableWf_tableSet d _ _ _ ih

/-- A change of every listed record that keeps the unlisted one changes the record of every key. -/
theorem tableGet_tableMap [DecidableEq α] (d : α) (f : Nat → α → α) (t : Table α) (k : Nat) (hf : f k d = d) :
    tableGet d (tableMap d f t) k = f k (tableGet d t k) := by
  induction t with
  | nil => simp [tableMap, tableGet, hf]
  | cons p t ih =>
    obtain ⟨j, w⟩ := p
    by_cases hj : j = k
    · subst hj
      simp [tableMap, tableGet]
    · have : tableGet d (tableMap d f ((j, w) :: t)) k = tableGet d (tableMap d f t) k := tableGet_tableSet_other d _ _ hj
      rw [this, ih]
      simp [tableGet, hj]

/-- The empty table is canonical. -/
theorem tableWf_nil [DecidableEq α] (d : α) : tableWf d ([] : Table α) := ⟨List.Pairwise.nil, by simp⟩

end Tables

variable (s : State)

@[simp] theorem State.head_setHead_same (k : Nat) (v : HeadEntry) : (s.setHead k v).head k = v := by
  simp [State.head, State.setHead]

@[simp] theorem State.mark_setMark_same (k : Nat) (v : AddrMark) : (s.setMark k v).mark k = v := by
  simp [State.mark, State.setMark]

@[simp] theorem State.head_setMark (k k' : Nat) (v : AddrMark) : (s.setMark k v).head k' = s.head k' := rfl

@[simp] theorem State.mark_setHead (k k' : Nat) (v : HeadEntry) : (s.setHead k v).mark k' = s.mark k' := rfl

@[simp] theorem State.outlet_setOutlet_same (k : Nat) (v : Outlet) : (s.setOutlet k v).outlet k = v := by
  simp [State.outlet, State.setOutlet]

@[simp] theorem State.account_setAccount_same (k : Nat) (v : Account) : (s.setAccount k v).account k = v := by
  simp [State.account, State.setAccount]

@[simp] theorem State.tenant_setTenant_same (k : Nat) (v : Tenant) : (s.setTenant k v).tenant k = v := by
  simp [State.tenant, State.setTenant]

@[simp] theorem State.esc_setEsc_same (k : Nat) (v : Escalation) : (s.setEsc k v).esc k = v := by
  simp [State.esc, State.setEsc]

@[simp] theorem State.causes_setCauses_same (k : Nat) (v : CauseSet) : (s.setCauses k v).causes k = v := by
  simp [State.causes, State.setCauses]

theorem State.outlet_setOutlet_other {k k' : Nat} (v : Outlet) (h : k ≠ k') : (s.setOutlet k v).outlet k' = s.outlet k' := by
  simp [State.outlet, State.setOutlet, tableGet_tableSet_other _ _ _ h]

theorem State.head_setHead_other {k k' : Nat} (v : HeadEntry) (h : k ≠ k') : (s.setHead k v).head k' = s.head k' := by
  simp [State.head, State.setHead, tableGet_tableSet_other _ _ _ h]

theorem State.tenant_setTenant_other {k k' : Nat} (v : Tenant) (h : k ≠ k') : (s.setTenant k v).tenant k' = s.tenant k' := by
  simp [State.tenant, State.setTenant, tableGet_tableSet_other _ _ _ h]

theorem State.esc_setEsc_other {k k' : Nat} (v : Escalation) (h : k ≠ k') : (s.setEsc k v).esc k' = s.esc k' := by
  simp [State.esc, State.setEsc, tableGet_tableSet_other _ _ _ h]

end Sys2Proof.Machine
end

