-- ==== Sys2Proof/Laws/Closed.lean ====
section
/-! SUPPORT. What is said of a state and is kept by the primitive updates of the blocks is kept by every operation of the meter link, the attribution, the ledger, the enforcement and the notices. The operations are unfolded here once; an invariant or a frame is then one proof of `Closed`. -/

namespace Sys2Proof.Machine

/-- TP without the upstream queues, the pending copies and the drop count: what no block but TP writes. -/
def TrunkPort.line (p : TrunkPort) : TrunkPort := { p with completions := [], summaries := [], forwards := [], copies := [], dropCount := 0 }

/-- What is said of a state is kept by the updates that the blocks' operations are made of. -/
structure Closed (P : State → Prop) : Prop where
  onOt : ∀ {s} f, P s → P (State.onOt s f)
  onOae : ∀ {s} f, P s → P (State.onOae s f)
  onTl : ∀ {s} f, P s → P (State.onTl s f)
  onEs : ∀ {s} f, P s → P (State.onEs s f)
  onFm : ∀ {s} f, P s → (FeedsInv s.fm → FeedsInv (f s.fm)) → P (State.onFm s f)
  onMlc : ∀ {s} f, P s → (SwitchQueueInv s.mlc → SwitchQueueInv (f s.mlc)) → P (State.onMlc s f)
  onNu : ∀ {s} f, P s → (NoticeQueueInv s.nu → NoticeQueueInv (f s.nu)) → P (State.onNu s f)
  onTp : ∀ {s} f, P s → (TrunkInv s.tp → TrunkInv (f s.tp)) → (f s.tp).line = s.tp.line → P (State.onTp s f)

/-- A state of which a closed statement holds. -/
structure Keeps {P : State → Prop} (hP : Closed P) (s : State) : Prop where
  holds : P s

variable {P : State → Prop} {hP : Closed P} {s : State}

/-- A fold of operations that each keep a statement keeps it. -/
theorem Keeps.foldl {α : Type} {f : State → α → State} (hf : ∀ s a, Keeps hP s → Keeps hP (f s a)) (l : List α) {s : State}
    (h : Keeps hP s) : Keeps hP (l.foldl f s) := by
  induction l generalizing s with
  | nil => exact h
  | cons a l ih => exact ih (hf s a h)

theorem Keeps.onOt (h : Keeps hP s) (f) : Keeps hP (s.onOt f) := ⟨hP.onOt f h.holds⟩
theorem Keeps.onOae (h : Keeps hP s) (f) : Keeps hP (s.onOae f) := ⟨hP.onOae f h.holds⟩
theorem Keeps.onTl (h : Keeps hP s) (f) : Keeps hP (s.onTl f) := ⟨hP.onTl f h.holds⟩
theorem Keeps.onEs (h : Keeps hP s) (f) : Keeps hP (s.onEs f) := ⟨hP.onEs f h.holds⟩
theorem Keeps.onFm (h : Keeps hP s) {f} (hf : FeedsInv s.fm → FeedsInv (f s.fm)) : Keeps hP (s.onFm f) := ⟨hP.onFm f h.holds hf⟩
theorem Keeps.onMlc (h : Keeps hP s) {f} (hf : SwitchQueueInv s.mlc → SwitchQueueInv (f s.mlc)) : Keeps hP (s.onMlc f) :=
  ⟨hP.onMlc f h.holds hf⟩
theorem Keeps.onNu (h : Keeps hP s) {f} (hf : NoticeQueueInv s.nu → NoticeQueueInv (f s.nu)) : Keeps hP (s.onNu f) :=
  ⟨hP.onNu f h.holds hf⟩
theorem Keeps.onTp (h : Keeps hP s) {f} (hf : TrunkInv s.tp → TrunkInv (f s.tp)) (hl : (f s.tp).line = s.tp.line := by rfl) :
    Keeps hP (s.onTp f) := ⟨hP.onTp f h.holds hf hl⟩
theorem Keeps.setOutlet (h : Keeps hP s) (k v) : Keeps hP (s.setOutlet k v) := h.onOt _
theorem Keeps.setAccount (h : Keeps hP s) (k v) : Keeps hP (s.setAccount k v) := h.onOae _
theorem Keeps.setTenant (h : Keeps hP s) (k v) : Keeps hP (s.setTenant k v) := h.onTl _
theorem Keeps.setEsc (h : Keeps hP s) (k v) : Keeps hP (s.setEsc k v) := h.onEs _
theorem Keeps.onTenant (h : Keeps hP s) (k f) : Keeps hP (onTenant k f s) := h.setTenant _ _
theorem Keeps.setSlot (h : Keeps hP s) (k v) : Keeps hP (setSlot k v s) := h.setTenant _ _
theorem Keeps.setStage (h : Keeps hP s) (k v) : Keeps hP (setStage k v s) := h.setEsc _ _
theorem Keeps.clearAwaiting (h : Keeps hP s) (k) : Keeps hP (clearAwaiting k s) := h.setEsc _ _
theorem Keeps.setAwaiting (h : Keeps hP s) (k v) : Keeps hP (setAwaiting k v s) := h.setEsc _ _
theorem Keeps.markNoBaseline (h : Keeps hP s) (w) : Keeps hP (markNoBaseline w s) := h.onOt _

/-! ### The Notice Unit -/

theorem enqueue_nodup {x : Nat} {q : List Nat} (h : q.Nodup) : (enqueue x q).Nodup := by
  unfold enqueue
  split_ifs with hx
  · exact h
  · simpa [List.nodup_append] using ⟨h, fun a ha e => hx (e ▸ ha)⟩

theorem requeue_nodup {x : Nat} {c : CauseSet} {q : List Nat} (h : q.Nodup) : (requeue x c q).Nodup := by
  unfold requeue
  split_ifs
  · exact enqueue_nodup h
  · exact h.filter _

theorem queueAfterLatch_nodup {x : Nat} {c : CauseSet} {i : Nat} {q : List Nat} (h : q.Nodup) : (queueAfterLatch x c i q).Nodup := by
  unfold queueAfterLatch
  split_ifs
  · exact h
  · exact enqueue_nodup h
  · exact h

theorem Keeps.setCauses (h : Keeps hP s) (k v) : Keeps hP (s.setCauses k v) := h.onNu fun hq => hq

theorem Keeps.latchUnit (h : Keeps hP s) (c) : Keeps hP (latchUnit c s) := h.onNu fun hq => queueAfterLatch_nodup hq

theorem Keeps.latchTenant (h : Keeps hP s) (c t) : Keeps hP (latchTenant c t s) := by
  unfold Sys2Proof.Machine.latchTenant
  split_ifs
  · exact h
  · exact (h.setCauses _ _).onNu fun hq => queueAfterLatch_nodup hq

theorem Keeps.latchTenants (h : Keeps hP s) (c ts) : Keeps hP (latchTenants c ts s) :=
  Keeps.foldl (fun _ t h => h.latchTenant c t) ts h

theorem Keeps.setTenantMask (h : Keeps hP s) (t m) : Keeps hP (setTenantMask t m s) := by
  unfold Sys2Proof.Machine.setTenantMask
  refine Keeps.onNu (h.setCauses _ _) ?_
  exact fun hq => requeue_nodup hq

theorem Keeps.vacateSource (h : Keeps hP s) (t) : Keeps hP (vacateSource t s) :=
  (h.setCauses _ _).onNu fun hq => List.Nodup.filter _ hq

theorem Keeps.ackUnit (h : Keeps hP s) (c) : Keeps hP (ackUnit c s) := by
  unfold Sys2Proof.Machine.ackUnit
  refine Keeps.onNu (Keeps.foldl (fun _ x h => h.latchUnit x) _ (h.onNu ?_)) ?_
  · exact fun hq => hq
  · exact fun hq => requeue_nodup hq

theorem Keeps.ackTenant (h : Keeps hP s) (t c) : Keeps hP (ackTenant t c s) := by
  unfold Sys2Proof.Machine.ackTenant
  refine Keeps.onNu (Keeps.foldl (fun _ x h => h.latchTenant x t) _ (h.setCauses _ _)) ?_
  exact fun hq => requeue_nodup hq

theorem Keeps.setUnitMask (h : Keeps hP s) (m) : Keeps hP (setUnitMask m s) := h.onNu fun hq => requeue_nodup hq

/-! ### The Switch Queue -/

/-- A queue that is part of another in its order keeps what is said of it. -/
theorem SwitchQueueInv.sublist {m n : MeterLink} (h : SwitchQueueInv m) (hs : n.switchQueue.Sublist m.switchQueue) : SwitchQueueInv n :=
  ⟨hs.length_le.trans h.depth, h.distinct.sublist (hs.map _)⟩

theorem SwitchQueueInv.of_eq {m n : MeterLink} (h : SwitchQueueInv m) (hs : n.switchQueue = m.switchQueue) : SwitchQueueInv n :=
  h.sublist (hs ▸ List.Sublist.refl _)

@[simp] theorem advancePhase_switchQueue (m : MeterLink) : (advancePhase m).switchQueue = m.switchQueue := by
  unfold advancePhase endProbePhase endPollPhase endSwitchPhase
  split_ifs <;> rfl

@[simp] theorem leaveSwitchPhase_switchQueue (m : MeterLink) : (leaveSwitchPhase m).switchQueue = m.switchQueue := by
  unfold leaveSwitchPhase
  split_ifs
  · exact advancePhase_switchQueue m
  · rfl

theorem addEntry_inv {m : MeterLink} (h : SwitchQueueInv m) (e : SwitchEntry) :
    SwitchQueueInv { m with switchQueue := addEntry m.switchQueue e } := by
  unfold addEntry
  split_ifs with ht
  · unfold addAnswer at ht
    split_ifs at ht with h1 h2
    refine ⟨by simp only [List.length_append, List.length_singleton]; omega, ?_⟩
    simp only [List.map_append, List.map_cons, List.map_nil, List.nodup_append]
    refine ⟨h.distinct, by simp, ?_⟩
    intro a ha b hb hab
    simp only [List.mem_singleton] at hb
    subst hb hab
    obtain ⟨x, hx, he⟩ := List.mem_map.mp ha
    refine h1 (List.any_eq_true.mpr ⟨x, hx, ?_⟩)
    simp only [SwitchEntry.order, Prod.mk.injEq] at he
    simpa using he
  · exact h.of_eq rfl

theorem Keeps.addRequest (h : Keeps hP s) (e) : Keeps hP (addRequest e s) := h.onMlc fun hm => addEntry_inv hm e

theorem removeEntries_inv {m : MeterLink} (h : SwitchQueueInv m) (g) : SwitchQueueInv (removeEntries g m) :=
  h.sublist (by simp [removeEntries])

theorem Keeps.withdrawRequest (h : Keeps hP s) (t) : Keeps hP (withdrawRequest t s) :=
  h.onMlc fun hm => (removeEntries_inv hm _).of_eq (leaveSwitchPhase_switchQueue _)

theorem Keeps.setHead (h : Keeps hP s) (k v) : Keeps hP (s.setHead k v) := h.onMlc fun hm => hm.of_eq rfl
theorem Keeps.setMark (h : Keeps hP s) (k v) : Keeps hP (s.setMark k v) := h.onMlc fun hm => hm.of_eq rfl

/-! ### The upstream queues and the order path -/

theorem Keeps.placeCompletion (h : Keeps hP s) (c) : Keeps hP (placeCompletion c s) := by
  unfold Sys2Proof.Machine.placeCompletion State.completionRoom
  split_ifs with hr
  · refine h.onTp fun hp => { hp with completions := ?_ }
    simp only [decide_eq_true_eq] at hr
    simp only [List.length_append, List.length_singleton]; omega
  · exact h

theorem Keeps.placeSummary (h : Keeps hP s) (r) : Keeps hP (placeSummary r s) := by
  unfold Sys2Proof.Machine.placeSummary
  split_ifs with hr
  · refine h.onTp fun hp => { hp with summaries := ?_ }
    simp only [List.length_append, List.length_singleton]; omega
  · exact h.latchUnit _

theorem Keeps.offerForward (h : Keeps hP s) (f) : Keeps hP (offerForward f s) := by
  unfold Sys2Proof.Machine.offerForward
  split_ifs with h1 h2
  · refine h.onTp fun hp => { hp with forwards := ?_ }
    simp only [List.length_append, List.length_singleton]; omega
  · exact (h.onTp fun hp => { hp with drops := Nat.min_le_left _ _ }).latchUnit _
  · exact h

/-! ### MLC and FM -/

theorem beginRound_inv {m : MeterLink} (h : SwitchQueueInv m) (n) : SwitchQueueInv (beginRound n m) := h.of_eq (by simp [beginRound])

theorem sendSwitch_inv {m : MeterLink} (h : SwitchQueueInv m) : SwitchQueueInv (sendSwitch m) := by
  unfold sendSwitch
  split
  · exact h
  · split
    · exact h
    · exact h.sublist (by simpa using List.eraseIdx_sublist _ _)

theorem pollNext_inv {m : MeterLink} (h : SwitchQueueInv m) : SwitchQueueInv (pollNext m) := by
  unfold pollNext
  split
  · exact h.of_eq rfl
  · split
    · exact h.of_eq rfl
    · exact h

theorem probeNext_inv {m : MeterLink} (h : SwitchQueueInv m) : SwitchQueueInv (probeNext m) := by
  unfold probeNext
  split
  · exact h.of_eq rfl
  · exact h

theorem endExchange_inv {m : MeterLink} (h : SwitchQueueInv m) (k a) : SwitchQueueInv (endExchange k a m) := by
  unfold endExchange
  split
  · exact h.of_eq rfl
  · exact h.of_eq (by simp)

theorem Keeps.endExchange (h : Keeps hP s) (k a) : Keeps hP (s.onMlc (endExchange k a)) := h.onMlc fun hm => endExchange_inv hm k a

theorem Keeps.missHead (h : Keeps hP s) (a) : Keeps hP (missHead s a) := by
  unfold Sys2Proof.Machine.missHead
  dsimp only
  split_ifs
  · exact ((h.setHead _ _).setMark _ _).latchUnit _
  · exact (h.setHead _ _).setMark _ _

theorem Keeps.notAnswered (h : Keeps hP s) (w) : Keeps hP (notAnswered w s) := by
  unfold Sys2Proof.Machine.notAnswered
  split
  · exact h.endExchange _ _
  · exact (h.missHead _).endExchange _ _

theorem Keeps.countError (h : Keeps hP s) (a) : Keeps hP (countError a s) := h.setHead _ _

theorem Keeps.failCheck (h : Keeps hP s) (w) : Keeps hP (failCheck w s) := by
  unfold Sys2Proof.Machine.failCheck
  split
  · exact (h.countError _).onMlc fun hm => hm.of_eq rfl
  · exact (h.countError _).notAnswered _

theorem Keeps.takeRepeat (h : Keeps hP s) (w) : Keeps hP (takeRepeat w s) := ((h.setHead _ _).setMark _ _).endExchange _ _

theorem Keeps.acceptFrame (h : Keeps hP s) (w f) : Keeps hP (acceptFrame w f s) := by
  unfold Sys2Proof.Machine.acceptFrame
  dsimp only
  have h1 := (h.setHead w.addr (acceptedEntry f (s.head w.addr))).setMark w.addr .answered
  have h2 : Keeps hP (if w.kind = .probe then Sys2Proof.Machine.latchUnit .headJoined
      ((s.setHead w.addr (acceptedEntry f (s.head w.addr))).setMark w.addr .answered)
      else (s.setHead w.addr (acceptedEntry f (s.head w.addr))).setMark w.addr .answered) := by
    split_ifs
    · exact h1.latchUnit _
    · exact h1
  exact (((h2.onMlc fun hm => hm.of_eq rfl).onOae _).onTp fun hp => { hp with }).endExchange _ _

theorem Keeps.receiveReply (h : Keeps hP s) (b) : Keeps hP (receiveReply b s) := by
  unfold Sys2Proof.Machine.receiveReply checkReply
  split
  · exact h.latchUnit _
  · split_ifs
    · exact h
    · split
      · exact h.failCheck _
      · split_ifs
        · exact (h.latchUnit _).notAnswered _
        · exact h.takeRepeat _
        · exact h.acceptFrame _ _
        · exact (h.countError _).notAnswered _
    · exact h.failCheck _

theorem Keeps.feedCauses (h : Keeps hP s) (a b) : Keeps hP (feedCauses a b s) := by
  unfold Sys2Proof.Machine.feedCauses
  split_ifs
  · exact h.latchUnit _
  · exact h.latchUnit _
  · exact h

theorem judgeFeed_count {r : Nat} {w : FeedWatch} {v : Verdict} (h : w.state ≠ .returning → w.count = 0) :
    (judgeFeed r w v).state ≠ .returning → (judgeFeed r w v).count = 0 := by
  cases v <;> cases hw : w.state <;> simp_all [judgeFeed]
  split_ifs <;> simp_all

theorem Keeps.judgeTally (h : Keeps hP s) (t) : Keeps hP (judgeTally t s) := by
  unfold Sys2Proof.Machine.judgeTally
  refine Keeps.feedCauses (Keeps.feedCauses (h.onFm ?_) _ _) _ _
  exact fun hf => ⟨judgeFeed_count hf.a, judgeFeed_count hf.b⟩

theorem Keeps.handFeeds (h : Keeps hP s) : Keeps hP (handFeeds s) := h.onOae _

theorem Keeps.endRound (h : Keeps hP s) : Keeps hP (endRound s) :=
  (((Keeps.foldl (fun _ a h => h.missHead a) _ h).onMlc fun hm => hm.of_eq rfl).judgeTally _).handFeeds

theorem forgetExchange_inv {m : MeterLink} (h : SwitchQueueInv m) (a) : SwitchQueueInv (forgetExchange a m) := by
  unfold forgetExchange
  split
  · split_ifs
    · exact endExchange_inv h _ _
    · exact h.of_eq (by simp)
  · split_ifs
    · exact endExchange_inv h _ _
    · exact h.of_eq (by simp)

/-! ### OAE -/

theorem Keeps.adjustRate (h : Keeps hP s) (t f o n) : Keeps hP (adjustRate t f o n s) := h.setAccount _ _

theorem Keeps.credit (h : Keeps hP s) (t f e) : Keeps hP (credit t f e s) := h.setAccount _ _

theorem Keeps.removeRates (h : Keeps hP s) (f l) : Keeps hP (removeRates f l s) :=
  Keeps.foldl (fun _ _ h => h.adjustRate _ _ _ _) l h

theorem Keeps.markIncomplete (h : Keeps hP s) (ts) : Keeps hP (markIncomplete ts s) :=
  Keeps.foldl (fun _ _ h => h.setAccount _ _) ts h

theorem Keeps.suspect (h : Keeps hP s) (o) : Keeps hP (suspect o s) := by
  unfold Sys2Proof.Machine.suspect
  split_ifs
  · exact (h.markIncomplete _).latchTenants _ _
  · exact h

theorem Keeps.takeUnbound (h : Keeps hP s) (k o st r d n) : Keeps hP (takeUnbound k o st r d n s) := by
  unfold Sys2Proof.Machine.takeUnbound
  dsimp only
  split_ifs
  · exact ((h.onOae _).setOutlet _ _).latchUnit _
  · exact (h.onOae _).setOutlet _ _

theorem Keeps.takeBound (h : Keeps hP s) (k o st r d n) : Keeps hP (takeBound k o st r d n s) :=
  (Keeps.foldl (fun _ _ h => (h.credit _ _ _).adjustRate _ _ _ _) _ h).setOutlet _ _

theorem Keeps.takeRecord (h : Keeps hP s) (hd st r) : Keeps hP (takeRecord hd st r s).1 := by
  unfold Sys2Proof.Machine.takeRecord
  dsimp only
  split
  · dsimp only; split_ifs
    · exact (h.setOutlet _ _).markIncomplete _
    · exact h.setOutlet _ _
  · exact h.setOutlet _ _
  · exact h.setOutlet _ _
  · exact (h.setOutlet _ _).suspect _
  · exact (h.setOutlet _ _).suspect _
  · split_ifs
    · exact h.takeBound _ _ _ _ _ _
    · exact h.takeUnbound _ _ _ _ _ _

theorem Keeps.takeRecords (hd st) (l : List MeterRecord) : ∀ {s : State}, Keeps hP s → Keeps hP (takeRecords hd st l s).1 := by
  induction l with
  | nil => exact fun h => h
  | cons r l ih => exact fun h => ih (h.takeRecord hd st r)

theorem Keeps.finishCopy (h : Keeps hP s) (es) : Keeps hP (finishCopy es s) := by
  unfold Sys2Proof.Machine.finishCopy
  split
  · exact h
  · exact (h.onTp fun hp => { hp with }).offerForward _

theorem Keeps.beginDelivery (h : Keeps hP s) : Keeps hP (beginDelivery s) := by
  unfold Sys2Proof.Machine.beginDelivery
  split
  · exact h.onOae _
  · exact h

theorem Keeps.advanceDelivery (h : Keeps hP s) (n) : Keeps hP (advanceDelivery n s) := by
  unfold Sys2Proof.Machine.advanceDelivery
  split
  · exact h
  · dsimp only
    split_ifs
    · exact (h.takeRecords _ _ _).onOae _
    · exact ((h.takeRecords _ _ _).onOae _).finishCopy _

theorem Keeps.endDelivery (h : Keeps hP s) : Keeps hP (endDelivery s) := by
  unfold Sys2Proof.Machine.endDelivery
  split
  · exact h
  · exact h.advanceDelivery _

theorem Keeps.takeDelivery (h : Keeps hP s) (n) : Keeps hP (takeDelivery n s) := by
  unfold Sys2Proof.Machine.takeDelivery
  split_ifs
  · split
    · exact h.beginDelivery.endDelivery
    · exact h.beginDelivery.advanceDelivery _
  · exact h

theorem Keeps.forgetHead (h : Keeps hP s) (a) : Keeps hP (forgetHead a s) := by
  have h1 : Keeps hP (if s.oae.taking.map Taking.head = some a then Sys2Proof.Machine.endDelivery s else s) := by
    split_ifs
    · exact h.endDelivery
    · exact h
  exact (((((h1.setHead _ _).onOae _).onTp fun hp => { hp with }).markNoBaseline _).onMlc fun hm => removeEntries_inv hm _).onMlc
    fun hm => forgetExchange_inv hm a

theorem Keeps.sweep (h : Keeps hP s) (c) : Keeps hP (sweep c s) :=
  Keeps.foldl (fun s p h => by
    unfold sweepOutlet
    dsimp only
    split_ifs
    · exact (h.removeRates _ _).setOutlet _ _
    · exact h) _ h

theorem Keeps.handTotal (h : Keeps hP s) (x) : Keeps hP (handTotal s x) := by
  unfold Sys2Proof.Machine.handTotal
  dsimp only
  split_ifs
  · exact (h.setAccount _ _).latchTenant _ _
  · exact h.setAccount _ _

theorem Keeps.unshed (h : Keeps hP s) (a ts) : Keeps hP (unshed a ts s) := Keeps.foldl (fun _ _ h => h.setEsc _ _) ts h

theorem Keeps.finishRelease (h : Keeps hP s) (k) : Keeps hP (finishRelease k s) := by
  unfold Sys2Proof.Machine.finishRelease
  dsimp only
  split_ifs
  · exact ((h.removeRates _ _).unshed _ _).setOutlet _ _
  · exact (h.removeRates _ _).setOutlet _ _

theorem Keeps.endReleases (h : Keeps hP s) : Keeps hP (endReleases s) :=
  Keeps.foldl (fun s p h => by
    unfold endRelease
    dsimp only
    split
    · split
      · exact h.finishRelease _
      · split
        · exact (h.placeCompletion _).finishRelease _
        · exact h
    · exact h) _ h

/-! ### ES -/

theorem Keeps.shedMark (h : Keeps hP s) (t k) : Keeps hP (shedMark t k s) := ((h.setOutlet _ _).setEsc _ _).setTenant _ _

theorem Keeps.placeOff (h : Keeps hP s) (t k) : Keeps hP (placeOff t k s) := by
  unfold Sys2Proof.Machine.placeOff
  dsimp only
  split
  · exact h
  · exact (h.addRequest _).shedMark _ _

theorem Keeps.leaveShedding (h : Keeps hP s) (t) : Keeps hP (leaveShedding t s) := (h.withdrawRequest _).clearAwaiting _

theorem Keeps.settleShedding (h : Keeps hP s) (c t) : Keeps hP (settleShedding c t s) :=
  ((h.setStage _ _).leaveShedding _).latchTenant _ _

theorem Keeps.chooseCandidate (h : Keeps hP s) (t f) : Keeps hP (chooseCandidate t f s) := by
  unfold Sys2Proof.Machine.chooseCandidate
  split_ifs
  · exact h
  · split
    · exact h.placeOff _ _
    · exact h.settleShedding _ _

theorem Keeps.failOutlet (h : Keeps hP s) (t a) : Keeps hP (failOutlet t a s) := ((h.setEsc _ _).latchTenant _ _).clearAwaiting _

theorem Keeps.judgeOff (h : Keeps hP s) (t f w) : Keeps hP (judgeOff t f w s) := by
  unfold Sys2Proof.Machine.judgeOff
  dsimp only
  split_ifs
  · exact (h.clearAwaiting _).chooseCandidate _ _
  · exact h.setAwaiting _ _
  · exact (h.failOutlet _ _).chooseCandidate _ _

theorem Keeps.sheddingStep (h : Keeps hP s) (t f) : Keeps hP (sheddingStep t f s) := by
  unfold Sys2Proof.Machine.sheddingStep
  split_ifs
  · exact h.settleShedding _ _
  · split
    · exact h.judgeOff _ _ _
    · exact h.chooseCandidate _ _

theorem Keeps.enterShedding (h : Keeps hP s) (t) : Keeps hP (enterShedding t s) := (h.setEsc _ _).latchTenant _ _

theorem Keeps.armedStep (h : Keeps hP s) (t f) : Keeps hP (armedStep t f s) := by
  unfold Sys2Proof.Machine.armedStep
  split_ifs
  · exact h.setEsc _ _
  · split
    · split_ifs
      · exact (h.enterShedding _).sheddingStep _ _
      · exact h.setEsc _ _
    · exact h

theorem Keeps.holdStep (h : Keeps hP s) (t f) : Keeps hP (holdStep t f s) := by
  unfold Sys2Proof.Machine.holdStep
  split_ifs
  · exact (h.enterShedding _).sheddingStep _ _
  · exact h.setStage _ _
  · exact h

theorem Keeps.dropRestore (h : Keeps hP s) (t) : Keeps hP (dropRestore t s) := h.setEsc _ _

theorem Keeps.restoreEnd (h : Keeps hP s) (t) : Keeps hP (restoreEnd t s) := by
  unfold Sys2Proof.Machine.restoreEnd
  split
  · dsimp only; split_ifs
    · exact ((h.placeCompletion _).dropRestore _).setSlot _ _
    · exact h.setEsc _ _
  · exact h

theorem Keeps.unmark (h : Keeps hP s) (t a f) : Keeps hP (unmark t a f s) := (h.setOutlet _ _).setEsc _ _

theorem Keeps.placeOn (h : Keeps hP s) (t a) : Keeps hP (placeOn t a s) := by
  unfold Sys2Proof.Machine.placeOn
  dsimp only
  split
  · exact h
  · exact (h.addRequest _).setAwaiting _ _

theorem Keeps.goOn (t) (l : List OutletAddr) : ∀ {s : State}, Keeps hP s → Keeps hP (goOn t l s) := by
  induction l with
  | nil => exact fun h => h.restoreEnd t
  | cons a l ih =>
    intro s h
    unfold Sys2Proof.Machine.goOn
    dsimp only
    split_ifs
    · exact ih ((h.setEsc _ _).unmark _ _ _)
    · exact (h.setEsc _ _).placeOn _ _

theorem Keeps.goOnNewest (h : Keeps hP s) (t) : Keeps hP (goOnNewest t s) := Keeps.goOn t _ h

theorem Keeps.restoringStep (h : Keeps hP s) (t) : Keeps hP (restoringStep t s) := by
  unfold Sys2Proof.Machine.restoringStep judgeOn
  split
  · dsimp only; split_ifs
    · exact (h.clearAwaiting _).goOnNewest _
    · exact (h.unmark _ _ _).goOnNewest _
    · exact h.setAwaiting _ _
    · exact (h.unmark _ _ _).goOnNewest _
  · exact h.goOnNewest _

theorem Keeps.takeTransition (h : Keeps hP s) (k t x) : Keeps hP (takeTransition k t s x) := by
  unfold Sys2Proof.Machine.takeTransition
  split_ifs
  · split
    · exact h
    · exact h.setEsc _ _
    · exact h.enterShedding _
  · exact h

theorem Keeps.stageStep (h : Keeps hP s) (t f) : Keeps hP (stageStep t f s) := by
  unfold Sys2Proof.Machine.stageStep
  split
  · exact h
  · exact h.armedStep _ _
  · exact h.sheddingStep _ _
  · exact h.holdStep _ _
  · exact h.restoringStep _

theorem Keeps.esActive (h : Keeps hP s) (k t xs f) : Keeps hP (esActive k t xs f s) := by
  unfold Sys2Proof.Machine.esActive
  have h' := Keeps.foldl (fun _ x h => h.takeTransition k t x) xs h
  dsimp only
  split_ifs
  · exact h'
  · exact h'.stageStep _ _

theorem Keeps.esPassive (h : Keeps hP s) (t) : Keeps hP (esPassive t s) := by
  unfold Sys2Proof.Machine.esPassive
  split_ifs
  · exact h.restoringStep _
  · exact h

theorem Keeps.stageToIdle (h : Keeps hP s) (t) : Keeps hP (stageToIdle t s) := by
  unfold Sys2Proof.Machine.stageToIdle abandonRestore
  split
  · exact h
  · exact h.setEsc _ _
  · exact (h.setStage _ _).leaveShedding _
  · exact h.setStage _ _
  · split
    · dsimp only; split
      · exact ((h.placeCompletion _).dropRestore _).setSlot _ _
      · exact (h.dropRestore _).setSlot _ _
    · exact h.dropRestore _

/-! ### TL -/

theorem Keeps.applyPending (h : Keeps hP s) (t) : Keeps hP (applyPending t s) := by
  unfold Sys2Proof.Machine.applyPending
  split
  · exact (h.onTenant _ _).setTenantMask _ _
  · exact h

theorem Keeps.addLifetime (h : Keeps hP s) (x) : Keeps hP (addLifetime x s) := by
  unfold Sys2Proof.Machine.addLifetime
  dsimp only
  split_ifs
  · exact (h.setTenant _ _).latchTenant _ _
  · exact h.setTenant _ _

theorem Keeps.applyAllowance (h : Keeps hP s) (t a) : Keeps hP (applyAllowance t a s) := by
  unfold Sys2Proof.Machine.applyAllowance
  dsimp only
  split_ifs
  · exact (h.onTenant _ _).latchTenant _ _
  · exact h.onTenant _ _

theorem Keeps.evaluate (h : Keeps hP s) (k t m c b ev) : Keeps hP (evaluate k t m c b ev s).1 := by
  unfold Sys2Proof.Machine.evaluate latchMove
  split
  · exact h
  · dsimp only; split
    · exact (h.setTenant _ _).latchTenant _ _
    · exact (h.setTenant _ _).latchTenant _ _
    · exact h.setTenant _ _

theorem Keeps.demandComputation (h : Keeps hP s) (a k x fs used) : Keeps hP (demandComputation a k x fs used s).1 := by
  unfold Sys2Proof.Machine.demandComputation
  dsimp only
  split
  · exact (h.onTenant _ _).evaluate _ _ _ _ _ _
  · dsimp only
    exact h.onTenant _ _

theorem Keeps.bucketStep (h : Keeps hP s) (a b k x fs) : Keeps hP (bucketStep a b k x fs s).1 := by
  unfold Sys2Proof.Machine.bucketStep
  dsimp only
  split
  · split
    · exact (h.setTenant _ _).demandComputation _ _ _ _ _
    · exact h.setTenant _ _
  · exact h.setTenant _ _

theorem Keeps.vacate (h : Keeps hP s) (t) : Keeps hP (vacate t s) :=
  ((((h.setTenant _ _).onTl _).vacateSource t).setEsc _ _).setAccount _ _

theorem Keeps.slotStep (h : Keeps hP s) (t c) : Keeps hP (slotStep t c s) := by
  unfold Sys2Proof.Machine.slotStep serveStatement serveClose serveOwed
  split
  · split_ifs
    · exact h.vacate _
    · exact h
  · split_ifs
    · exact (h.placeCompletion _).onTenant _ _
    · exact (h.placeCompletion _).onTenant _ _
    · exact h
  · split_ifs
    · exact (h.placeCompletion _).vacate _
    · exact h
  · exact h
  · split_ifs
    · exact (h.placeCompletion _).setSlot _ _
    · exact h

theorem Keeps.summaryStep (h : Keeps hP s) (k x) : Keeps hP (summaryStep k x s) := by
  unfold Sys2Proof.Machine.summaryStep
  split_ifs
  · exact h.placeSummary _
  · exact h

theorem Keeps.judgeActive (h : Keeps hP s) (k a x) : Keeps hP (judgeActive k a x s) :=
  ((h.evaluate _ _ _ _ _ _).bucketStep _ _ _ _ _).esActive _ _ _ _

theorem Keeps.settle (h : Keeps hP s) (x) : Keeps hP (settle s x) := by
  unfold Sys2Proof.Machine.settle
  split_ifs
  · exact h
  · dsimp only
    have h1 := (h.applyPending x.tenant).addLifetime x
    split
    · unfold settleUnder
      dsimp only
      split_ifs
      · exact (((((h1.applyAllowance _ _).judgeActive _ _ _)).summaryStep _ _).onTenant _ _).slotStep _ _
      · exact ((((((h1.applyAllowance _ _).bucketStep _ _ _ _ _).esPassive _)).summaryStep _ _).onTenant _ _).slotStep _ _
    · exact h1

theorem Keeps.closePeriod (h : Keeps hP s) : Keeps hP (closePeriod s) := by
  unfold Sys2Proof.Machine.closePeriod
  split
  · exact h
  · unfold runClose closeSteps
    dsimp only
    exact Keeps.foldl (fun _ x h => h.settle x) _
      ((Keeps.foldl (fun _ x h => h.handTotal x) _ ((h.onOae _).sweep _)).onOae _).endReleases

theorem Keeps.closeWith (h : Keeps hP s) (t kind) : Keeps hP (closeWith t kind s) := by
  unfold Sys2Proof.Machine.closeWith
  split_ifs
  · exact h.closePeriod
  · exact h

theorem Keeps.finishExpiry (h : Keeps hP s) : Keeps hP (finishExpiry s) := by
  unfold Sys2Proof.Machine.finishExpiry
  refine Keeps.foldl (fun _ _ h => h.closePeriod) _ ?_
  split_ifs
  · exact h.endRound
  · exact h

/-! ### The owners of orders -/

theorem Keeps.ownForgetHead (h : Keeps hP s) (a) : Keeps hP (ownForgetHead a s).1 := by
  unfold Sys2Proof.Machine.ownForgetHead; split_ifs; exacts [h.forgetHead _, h]

theorem Keeps.ownBindOutlet (h : Keeps hP s) (f) : Keeps hP (ownBindOutlet f s).1 := by
  unfold Sys2Proof.Machine.ownBindOutlet bindOutlet
  split_ifs <;> first | exact h | (dsimp only; exact (h.setOutlet _ _).onOt _)

theorem Keeps.ownAlterOutlet (h : Keeps hP s) (a b c d) : Keeps hP (ownAlterOutlet a b c d s).1 := by
  unfold Sys2Proof.Machine.ownAlterOutlet; dsimp only
  split_ifs <;> first | exact h | (dsimp only; exact h.setOutlet _ _)

theorem Keeps.ownReleaseOutlet (h : Keeps hP s) (t a b) : Keeps hP (ownReleaseOutlet t a b s).1 := by
  unfold Sys2Proof.Machine.ownReleaseOutlet releaseOutlet; dsimp only
  split_ifs <;> first | exact h | (split <;> first | exact h | (dsimp only; exact (h.setOutlet _ _).onOt _))

theorem Keeps.ownReadOutlet (h : Keeps hP s) (a b) : Keeps hP (ownReadOutlet a b s).1 := by
  unfold Sys2Proof.Machine.ownReadOutlet; split_ifs <;> exact h

theorem Keeps.ownSetContract (h : Keeps hP s) (t f) : Keeps hP (ownSetContract t f s).1 := by
  unfold Sys2Proof.Machine.ownSetContract createTenant
  split_ifs
  · exact h
  · exact h
  all_goals
    split <;> first
      | exact h
      | (dsimp only; exact h.onTenant _ _)
      | (dsimp only; exact ((h.setTenant _ _).onTl _).setTenantMask _ _)
      | (dsimp only; exact (h.onTenant _ _).setTenantMask _ _)

theorem Keeps.ownHoldTenant (h : Keeps hP s) (t) : Keeps hP (ownHoldTenant t s).1 := by
  unfold Sys2Proof.Machine.ownHoldTenant holdTenant
  split_ifs <;> first | exact h | (dsimp only; exact ((h.onTenant _ _).stageToIdle _).onTenant _ _)

theorem Keeps.ownResumeTenant (h : Keeps hP s) (t) : Keeps hP (ownResumeTenant t s).1 := by
  unfold Sys2Proof.Machine.ownResumeTenant
  split_ifs <;> first | exact h | (dsimp only; exact h.onTenant _ _)

theorem Keeps.ownCloseTenant (h : Keeps hP s) (tag t) : Keeps hP (ownCloseTenant tag t s).1 := by
  unfold Sys2Proof.Machine.ownCloseTenant closeTenant
  split_ifs <;> first | exact h | (dsimp only; exact (h.onTenant _ _).stageToIdle _)

theorem Keeps.ownStatement (h : Keeps hP s) (tag t c) : Keeps hP (ownStatement tag t c s).1 := by
  unfold Sys2Proof.Machine.ownStatement
  split_ifs <;> first | exact h | (dsimp only; exact h.setSlot _ _)

theorem Keeps.resetSlot (h : Keeps hP s) (t) : Keeps hP (resetSlot t s) := by
  unfold Sys2Proof.Machine.resetSlot abandonOrder
  split
  · split_ifs; exacts [(h.placeCompletion _).setSlot _ _, h.setSlot _ _]
  · split_ifs; exacts [(h.placeCompletion _).setSlot _ _, h.setSlot _ _]
  · exact h.stageToIdle _
  · exact h

theorem Keeps.ownResetTenant (h : Keeps hP s) (t) : Keeps hP (ownResetTenant t s).1 := by
  unfold Sys2Proof.Machine.ownResetTenant resetTenant
  split_ifs <;> first | exact h | (dsimp only; exact (((h.resetSlot _).onTenant _ _).stageToIdle _).setEsc _ _)

theorem Keeps.ownRestoreOutlets (h : Keeps hP s) (tag t) : Keeps hP (ownRestoreOutlets tag t s).1 := by
  unfold Sys2Proof.Machine.ownRestoreOutlets restoreNothing beginRestore
  split_ifs <;> first | exact h | (dsimp only; exact h.setEsc _ _) | (dsimp only; exact (h.setEsc _ _).setSlot _ _)

theorem Keeps.ownAckNotice (h : Keeps hP s) (x c) : Keeps hP (ownAckNotice x c s).1 := by
  unfold Sys2Proof.Machine.ownAckNotice ackNotice
  split_ifs <;> first | exact h | (dsimp only; exact h.ackUnit _) | (dsimp only; exact h.ackTenant _ _)

theorem Keeps.ownSetNoticeMask (h : Keeps hP s) (m) : Keeps hP (ownSetNoticeMask m s).1 := by
  unfold Sys2Proof.Machine.ownSetNoticeMask
  split_ifs <;> first | exact h | (dsimp only; exact h.setUnitMask _)

end Sys2Proof.Machine
end

