-- ==== Sys2Proof/Laws/Invariant.lean ====
section
/-! SUPPORT. The invariant of the cadence, of the feed states, of the queues and of the order path is closed under the blocks' operations, and so are the frames; what TP, CT and the resets do to it. -/

namespace Sys2Proof.Machine

variable {s : State}

/-- The invariant is closed under the blocks' operations. -/
theorem closed_blockInv : Closed BlockInv where
  onOt _ h := ⟨h.cadence, h.feeds, h.switchQueue, h.noticeQueue, h.trunk⟩
  onOae _ h := ⟨h.cadence, h.feeds, h.switchQueue, h.noticeQueue, h.trunk⟩
  onTl _ h := ⟨h.cadence, h.feeds, h.switchQueue, h.noticeQueue, h.trunk⟩
  onEs _ h := ⟨h.cadence, h.feeds, h.switchQueue, h.noticeQueue, h.trunk⟩
  onFm _ h hf := ⟨h.cadence, hf h.feeds, h.switchQueue, h.noticeQueue, h.trunk⟩
  onMlc _ h hf := ⟨h.cadence, h.feeds, hf h.switchQueue, h.noticeQueue, h.trunk⟩
  onNu _ h hf := ⟨h.cadence, h.feeds, h.switchQueue, hf h.noticeQueue, h.trunk⟩
  onTp _ h hf _ := ⟨h.cadence, h.feeds, h.switchQueue, h.noticeQueue, hf h.trunk⟩

/-- The blocks' operations write neither the queue of commands, nor CT, nor what TP keeps beside its upstream queues. -/
theorem closed_frame (r : State) : Closed fun t => t.pending = r.pending ∧ t.ct = r.ct ∧ t.tp.line = r.tp.line where
  onOt _ h := h
  onOae _ h := h
  onTl _ h := h
  onEs _ h := h
  onFm _ h _ := h
  onMlc _ h _ := h
  onNu _ h _ := h
  onTp _ h _ hl := ⟨h.1, h.2.1, hl.trans h.2.2⟩

/-- The invariant as a closed statement. -/
theorem BlockInv.kept (h : BlockInv s) : Keeps closed_blockInv s := ⟨h⟩

theorem BlockInv.onCt (h : BlockInv s) {f} (hf : CadenceInv s.ct → CadenceInv (f s.ct)) : BlockInv (s.onCt f) :=
  ⟨hf h.cadence, h.feeds, h.switchQueue, h.noticeQueue, h.trunk⟩

theorem BlockInv.onTp (h : BlockInv s) {f} (hf : TrunkInv s.tp → TrunkInv (f s.tp)) : BlockInv (s.onTp f) :=
  ⟨h.cadence, h.feeds, h.switchQueue, h.noticeQueue, hf h.trunk⟩

theorem BlockInv.onNu (h : BlockInv s) {f} (hf : NoticeQueueInv s.nu → NoticeQueueInv (f s.nu)) : BlockInv (s.onNu f) :=
  ⟨h.cadence, h.feeds, h.switchQueue, hf h.noticeQueue, h.trunk⟩

theorem BlockInv.latchUnit (h : BlockInv s) (c) : BlockInv (latchUnit c s) := (h.kept.latchUnit c).holds

theorem BlockInv.setCauses (h : BlockInv s) (k v) : BlockInv (s.setCauses k v) := (h.kept.setCauses k v).holds

theorem BlockInv.afterBuild (h : BlockInv s) {x rest} (hq : s.nu.queue = x :: rest) : BlockInv (afterBuild x rest s) := by
  have hr : rest.Nodup := by
    have := h.noticeQueue
    unfold NoticeQueueInv at this
    rw [hq] at this
    exact this.of_cons
  unfold Sys2Proof.Machine.afterBuild
  split_ifs
  · exact (h.onNu (f := fun n => { n with queue := rest }) fun _ => hr).onNu fun hq => hq
  · exact (h.onNu (f := fun n => { n with queue := rest }) fun _ => hr).setCauses _ _

theorem BlockInv.fillSlot (h : BlockInv s) (hb : s.tp.broadcasts = []) (tag c a) : BlockInv (fillSlot tag c a s) :=
  h.onTp fun hp => { hp with slot := by simp, reply := by simp, waiting := fun hn => absurd hb hn }

/-- While the order path is free no reply waits. -/
theorem TrunkInv.slot_none {p : TrunkPort} (h : TrunkInv p) (hf : p.path = .free) : p.slot = none := by
  by_contra hc
  have := h.slot.mpr hc
  rw [hf] at this
  cases this

/-- While no unicast order is with its owner no broadcast order waits. -/
theorem TrunkInv.broadcasts_nil {p : TrunkPort} (h : TrunkInv p) (hf : ∀ c, p.path ≠ .atOwner c) : p.broadcasts = [] := by
  by_contra hc
  obtain ⟨c, hc⟩ := h.waiting hc
  exact hf c hc

/-! ### CT -/

/-- CT halted has no countdown, no collecting period and no expiry due. -/
theorem CadenceInv.halt {ct : CadenceTimer} (h : CadenceInv ct) : CadenceInv ct.halt :=
  ⟨h.interval, by simp [CadenceTimer.halt], by simp [CadenceTimer.halt], by simp [CadenceTimer.halt]⟩

theorem CadenceInv.tick {ct : CadenceTimer} (h : CadenceInv ct) : CadenceInv ct.tick := by
  unfold CadenceTimer.tick
  split
  · next c hr hc =>
    obtain ⟨hcf, d, hd, h1, h2⟩ := h.running hr
    have hi := h.interval
    rw [hc] at hd
    cases hd
    split_ifs
    · exact ⟨hi, fun _ => ⟨hcf, _, rfl, by simp only [UnitConfig.periodTicks, Config.ticksPerSecond]; omega, le_refl _⟩,
        fun hn => absurd hr hn, fun hn => by simp [hr] at hn⟩
    · exact ⟨hi, fun _ => ⟨hcf, _, rfl, by omega, by dsimp only; omega⟩, fun hn => absurd hr hn, fun hn => by simp [hr] at hn⟩
  · exact ⟨h.interval, h.running, h.stopped, h.config⟩

theorem CadenceInv.expire {ct : CadenceTimer} (h : CadenceInv ct) (hr : ct.runState = .running) : CadenceInv ct.expire :=
  ⟨h.interval, h.running, fun hn => absurd hr hn, fun hn => by simp [CadenceTimer.expire, hr] at hn⟩

theorem BlockInv.haltUnit (h : BlockInv s) : BlockInv (haltUnit s) := by
  have h1 : BlockInv ((Sys2Proof.Machine.endDelivery (Sys2Proof.Machine.finishExpiry s)).onCt CadenceTimer.halt) :=
    BlockInv.onCt h.kept.finishExpiry.endDelivery.holds CadenceInv.halt
  unfold Sys2Proof.Machine.haltUnit abandonPeriod zeroCollecting
  refine (Keeps.onOae (Keeps.onMlc h1.kept ?_) _).holds
  exact fun hm => hm.of_eq rfl

/-! ### The resets -/

theorem cadenceInv_initial (k : Nat) : CadenceInv { CadenceTimer.initial with prescaler := k } :=
  ⟨by simp [CadenceTimer.initial, UnitConfig.initial], by simp [CadenceTimer.initial], by simp [CadenceTimer.initial],
   by simp [CadenceTimer.initial]⟩

theorem feedsInv_initial : FeedsInv FeedMonitor.initial := ⟨fun _ => rfl, fun _ => rfl⟩

theorem fullReset_inv (s : State) : BlockInv (fullReset s) where
  cadence := cadenceInv_initial _
  feeds := feedsInv_initial
  switchQueue := ⟨by simp [fullReset, State.reset, MeterLink.initial], by simp [fullReset, State.reset, MeterLink.initial]⟩
  noticeQueue := by simp [NoticeQueueInv, fullReset, State.reset, NoticeUnit.initial]
  trunk := by constructor <;> simp [fullReset, TrunkPort.fullReset, TrunkPort.initial]

theorem BlockInv.accountsReset (h : BlockInv s) : BlockInv (accountsReset s) := by
  refine ⟨h.cadence, feedsInv_initial, ⟨by simp [Sys2Proof.Machine.accountsReset, MeterLink.accounts], by simp [Sys2Proof.Machine.accountsReset, MeterLink.accounts]⟩, ?_, ?_⟩
  · exact requeue_nodup List.nodup_nil
  · exact
      { h.trunk with
        completions := Nat.zero_le _, summaries := Nat.zero_le _, forwards := Nat.zero_le _, drops := Nat.zero_le _
        reply := fun hs => h.trunk.reply (by
          simp only [Sys2Proof.Machine.accountsReset, TrunkPort.accounts] at hs
          split_ifs at hs; exact hs)
        inHand := fun hs => by
          simp only [Sys2Proof.Machine.accountsReset, TrunkPort.accounts] at hs ⊢
          split_ifs at hs with hc
          exact fun hn => hc ⟨hs, hn⟩ }

theorem BlockInv.resetUnit (h : BlockInv s) (k) : BlockInv (resetUnit k s) := by
  cases k
  · exact fullReset_inv s
  · exact h.accountsReset

/-! ### Broadcast orders -/

theorem BlockInv.handOver (h : BlockInv s) (c) : BlockInv (handOver s c) := by
  unfold Sys2Proof.Machine.handOver actHalt actResetUnit
  split
  · split_ifs
    · exact h.haltUnit
    · exact h
  · split
    · exact h
    · split_ifs
      · exact h
      · exact h.resetUnit _
  · exact h

theorem OrderPath.withOwner_iff {p : OrderPath} : p.withOwner = true ↔ ∃ c, p = .atOwner c := by cases p <;> simp [OrderPath.withOwner]

theorem BlockInv.arriveBroadcast (h : BlockInv s) (c) : BlockInv (arriveBroadcast c s) := by
  unfold Sys2Proof.Machine.arriveBroadcast
  split_ifs with hw
  · exact h.onTp fun hp => { hp with waiting := fun _ => OrderPath.withOwner_iff.mp hw }
  · exact h.handOver c

theorem BlockInv.frameHeard (h : BlockInv s) : BlockInv (frameHeard s) := h.onTp fun hp => { hp with }

theorem BlockInv.closeWindow (h : BlockInv s) : BlockInv (closeWindow s) := h.onTp fun hp => { hp with }

theorem BlockInv.broadcastFrame (h : BlockInv s) (c) : BlockInv (broadcastFrame c s) := by
  unfold Sys2Proof.Machine.broadcastFrame
  split_ifs
  · exact h.frameHeard.closeWindow.arriveBroadcast c
  · exact h

/-! ### TP -/

theorem BlockInv.orderFrameHeard (h : BlockInv s) : BlockInv (orderFrameHeard s) := by
  unfold Sys2Proof.Machine.orderFrameHeard openWindow
  exact h.frameHeard.onTp fun hp => { hp with }

theorem BlockInv.handOvers (h : BlockInv s) (l : List Instr) : BlockInv (l.foldl Sys2Proof.Machine.handOver s) := by
  induction l generalizing s with
  | nil => exact h
  | cons c l ih => exact ih (h.handOver c)

/-- An owner keeps the invariant and leaves no broadcast order waiting where none waits. -/
def OwnerKeeps (own : State → State × Answer) : Prop :=
  ∀ t, BlockInv t → t.tp.broadcasts = [] → BlockInv (own t).1 ∧ (own t).1.tp.broadcasts = []

/-- An owner made of the blocks' operations alone. -/
theorem OwnerKeeps.of_keeps {own : State → State × Answer}
    (hk : ∀ {P : State → Prop} {hP : Closed P} {t : State}, Keeps hP t → Keeps hP (own t).1) : OwnerKeeps own := fun t ht hb => by
  refine ⟨(hk ht.kept).holds, ?_⟩
  have hl := (hk (hP := closed_frame t) ⟨⟨rfl, rfl, rfl⟩⟩).holds.2.2
  exact (congrArg TrunkPort.broadcasts hl).trans hb

/-- An order whose owner keeps the invariant is answered, and the broadcasts that waited are handed over. -/
theorem BlockInv.answerOrder (h : BlockInv s) {tag code own} (ho : OwnerKeeps own) : BlockInv (answerOrder tag code own s) := by
  obtain ⟨h1, h2⟩ := ho (s.onTp fun p => { p with broadcasts := [] }) (h.onTp fun hp => { hp with waiting := fun hn => absurd rfl hn }) rfl
  exact (h1.fillSlot h2 _ _ _).handOvers _

/-- An order whose owner keeps the invariant keeps it. -/
theorem BlockInv.takeOrder (h : BlockInv s) {c tag code own} (ho : OwnerKeeps own) : BlockInv (takeOrder c tag code own s) := by
  unfold Sys2Proof.Machine.takeOrder
  split_ifs with h1 h2 hf
  · exact h.answerOrder ho
  · exact h
  · have hn : s.tp.slot = none := h.trunk.slot_none hf
    refine BlockInv.answerOrder (h.orderFrameHeard.onTp fun hp => ?_) ho
    exact { hp with
      slot := by simp [Sys2Proof.Machine.orderFrameHeard, openWindow, Sys2Proof.Machine.frameHeard, State.onTp, hn]
      waiting := fun _ => ⟨c, rfl⟩ }
  · exact h.orderFrameHeard

theorem BlockInv.decodeUnicast (h : BlockInv s) (hf : s.tp.path = .free) (tag p) : BlockInv (decodeUnicast tag p s) := by
  have hn : s.tp.slot = none := h.trunk.slot_none hf
  have hb : s.tp.broadcasts = [] := h.trunk.broadcasts_nil (by simp [hf])
  have h1 : ∀ c, BlockInv (s.onTp fun p => { p with path := .atOwner c }) := fun c =>
    h.onTp fun hp => { hp with slot := by simp [hn], waiting := fun _ => ⟨c, rfl⟩ }
  unfold Sys2Proof.Machine.decodeUnicast refuseOrder
  split
  · exact h.fillSlot hb _ _ _
  · split_ifs
    · split
      · exact h1 _
      · exact h.fillSlot hb _ _ _
    · exact h.fillSlot hb _ _ _

theorem BlockInv.routeFrame (h : BlockInv s) (f) : BlockInv (routeFrame f s) := by
  unfold Sys2Proof.Machine.routeFrame receiveBroadcast receiveUnicast openWindow
  split_ifs with h1 h2 h3 h4
  · exact h.onTp fun hp => { hp with }
  · exact h
  · exact h
  · split
    · exact h.closeWindow
    · split
      · exact h.closeWindow.arriveBroadcast _
      · exact h.closeWindow
  · dsimp only
    split_ifs with h5
    · refine (h.onTp fun hp => { hp with }).decodeUnicast ?_ _ _
      simp only [decide_eq_true_eq] at h5
      exact h5.2
    · exact h.onTp fun hp => { hp with }

theorem BlockInv.takeFrame (h : BlockInv s) (b e) : BlockInv (takeFrame b e s) := by
  unfold Sys2Proof.Machine.takeFrame
  split_ifs
  · exact h.latchUnit _
  · split
    · exact h.routeFrame _
    · exact h.latchUnit _

theorem BlockInv.receiveCharacter (h : BlockInv s) (c) : BlockInv (receiveCharacter s c) := by
  unfold Sys2Proof.Machine.receiveCharacter
  dsimp only
  split
  · split_ifs
    · exact BlockInv.takeFrame (h.onTp fun hp => { hp with }) _ _
    · exact h.onTp fun hp => { hp with }
  · exact h.onTp fun hp => { hp with }

theorem BlockInv.receiveTrunk (h : BlockInv s) (l) : BlockInv (receiveTrunk l s) := by
  unfold Sys2Proof.Machine.receiveTrunk
  induction l generalizing s with
  | nil => exact h
  | cons c l ih => exact ih (h.receiveCharacter c)

theorem BlockInv.startInHand (h : BlockInv s) (f) : BlockInv (startInHand f s) :=
  h.onTp fun hp => { hp with reply := by simp, inHand := by simp }

theorem BlockInv.selectFrame (h : BlockInv s) : BlockInv (selectFrame s) := by
  unfold Sys2Proof.Machine.selectFrame
  split
  · next hc => exact (h.onTp fun hp => { hp with completions := by have := hp.completions; rw [hc] at this; exact (Nat.le_succ _).trans this }).startInHand _
  · split
    · next hq => exact (h.afterBuild hq).startInHand _
    · split
      · next hc => exact (h.onTp fun hp => { hp with summaries := by have := hp.summaries; rw [hc] at this; exact (Nat.le_succ _).trans this }).startInHand _
      · split
        · next hc => exact (h.onTp fun hp => { hp with forwards := by have := hp.forwards; rw [hc] at this; exact (Nat.le_succ _).trans this }).startInHand _
        · exact h

theorem transmitEnd_inv {p : TrunkPort} (h : TrunkInv p) : TrunkInv p.transmitEnd := by
  unfold TrunkPort.transmitEnd closeWindowOf
  split
  · exact h
  · next hs =>
    have hp : p.path = .replying := h.slot.mpr (h.reply hs)
    have hb : p.broadcasts = [] := h.broadcasts_nil (by simp [hp])
    exact { h with slot := by simp, reply := by simp, inHand := by simp, waiting := fun hn => absurd hb hn }
  · exact { h with reply := by simp, inHand := by simp }

theorem BlockInv.endTransmission (h : BlockInv s) : BlockInv (endTransmission s) := by
  unfold Sys2Proof.Machine.endTransmission
  dsimp only
  split
  · exact BlockInv.resetUnit (h.onTp transmitEnd_inv) _
  · exact h.onTp transmitEnd_inv

theorem lose_inv {p : TrunkPort} (h : TrunkInv p) (b) : TrunkInv (p.lose b) := by
  unfold TrunkPort.lose
  split_ifs
  · exact h
  all_goals exact { h with reply := by simp, inHand := by simp }

end Sys2Proof.Machine
end

