-- ==== Sys2Proof/Laws/Reception.lean ====
section
/-! SUPPORT. What the receive framer and the characters of a line do: a character gives back the byte it carries, and a reception to the length of its header is one frame taken. -/

namespace Sys2Proof.Machine

/-! ### Characters -/

@[simp] theorem byte_sentCharacter (b : Byte) : Character.byte (sentCharacter b) = b := by
  unfold sentCharacter Character.byte
  ext i hi
  simp only [BitVec.append_eq, BitVec.getElem_extractLsb', BitVec.getLsbD_append]
  have : 1 + i - 1 = i := by omega
  simp [this, hi]

@[simp] theorem framingError_sentCharacter (b : Byte) : Character.framingError (sentCharacter b) = false := by
  unfold sentCharacter Character.framingError
  simp only [BitVec.append_eq, BitVec.getLsbD_append]
  rfl

@[simp] theorem bytesOf_sentCharacters (l : List Byte) : bytesOf (sentCharacters l) = l := by
  simp [bytesOf, sentCharacters, Function.comp_def]

@[simp] theorem anyFramingError_sentCharacters (l : List Byte) : anyFramingError (sentCharacters l) = false := by
  simp [anyFramingError, sentCharacters]

@[simp] theorem length_bytesOf (l : List Character) : (bytesOf l).length = l.length := List.length_map ..

@[simp] theorem length_levels (c : Character) : (Character.levels c).length = 10 := by simp [Character.levels]

/-- A frame takes ten bit times for each of its bytes. -/
@[simp] theorem length_lineLevels (l : List Byte) : (lineLevels l).length = frameBits l := by
  unfold lineLevels frameBits sentCharacters
  induction l with
  | nil => rfl
  | cons b l ih => simp only [List.map_cons, List.flatMap_cons, List.length_append, length_levels, List.length_cons, ih]; omega

/-! ### The levels of a frame -/

/-- A line on which no frame has begun rests at 1. -/
@[simp] theorem levelAt_nil (bit : Nat) : levelAt [] bit = true := rfl

/-- The ten bit times of the first character of a frame. -/
theorem levelAt_cons_of_lt (b : Byte) (l : List Byte) {bit : Nat} (h : bit < 10) :
    levelAt (b :: l) bit = (sentCharacter b).getLsbD (9 - bit) := by
  have hl : lineLevels (b :: l) = Character.levels (sentCharacter b) ++ lineLevels l := rfl
  unfold levelAt
  rw [hl, List.getD_eq_getElem?_getD, List.getElem?_append_left (by simpa using h)]
  simp [Character.levels, h]

/-- The characters behind it follow without idle bits. -/
theorem levelAt_cons_add (b : Byte) (l : List Byte) (bit : Nat) : levelAt (b :: l) (10 + bit) = levelAt l bit := by
  have hl : lineLevels (b :: l) = Character.levels (sentCharacter b) ++ lineLevels l := rfl
  unfold levelAt
  rw [hl, List.getD_eq_getElem?_getD, List.getElem?_append_right (by simp)]
  simp

/-- Past the last bit of a frame the line rests at 1. -/
theorem levelAt_of_le {l : List Byte} {bit : Nat} (h : frameBits l ≤ bit) : levelAt l bit = true := by
  unfold levelAt
  rw [List.getD_eq_getElem?_getD, List.getElem?_eq_none (by simpa using h)]
  rfl

/-! ### The receive framer -/

/-- The length a header gives does not change with the characters behind it. -/
theorem trunkLength_append {l m : List Byte} {n : Nat} (h : trunkLength l = some n) : trunkLength (l ++ m) = some n := by
  match l, h with
  | _ :: _ :: _ :: _ :: _, h => exact h

/-- The length a header gives is above the four bytes of the header. -/
theorem trunkLength_pos {l : List Byte} {n : Nat} (h : trunkLength l = some n) : 0 < n := by
  match l, h with
  | _ :: _ :: _ :: len :: _, h => simp only [trunkLength, Option.some.injEq] at h; omega

/-- Characters short of the length their header gives are held by the framer. -/
theorem foldl_receiveCharacter_short (l : List Character) (s : State) (r : List Character)
    (hr : s.tp.rx.getD [] = r) (hl : l ≠ [])
    (h : ∀ n, trunkLength (bytesOf (r ++ l)) = some n → r.length + l.length < n) :
    l.foldl receiveCharacter s = s.onTp fun p => { p with rx := some (r ++ l), idleTicks := 0 } := by
  induction l generalizing s r with
  | nil => exact absurd rfl hl
  | cons c l ih =>
    have hc : receiveCharacter s c = s.onTp fun p => { p with rx := some (r ++ [c]), idleTicks := 0 } := by
      unfold receiveCharacter
      rw [hr]
      dsimp only
      split
      · next n hn =>
        have hn' : trunkLength (bytesOf (r ++ c :: l)) = some n := by
          have := trunkLength_append (m := bytesOf l) hn
          simpa [bytesOf] using this
        have := h n hn'
        simp only [List.length_cons, List.length_append, List.length_nil] at this ⊢
        rw [if_neg (by omega)]
      · rfl
    rw [List.foldl_cons, hc]
    by_cases hl' : l = []
    · subst hl'; rfl
    · rw [ih (s.onTp fun p => { p with rx := some (r ++ [c]), idleTicks := 0 }) (r ++ [c]) rfl hl' (fun n hn => by
        have := h n (by simpa using hn)
        simp only [List.length_append, List.length_cons, List.length_nil] at this ⊢
        omega)]
      simp [State.onTp]

/-- A reception that begins with the line idle and ends at the length its header gives is one frame, taken with the receive framer idle. -/
theorem receiveTrunk_whole (l : List Character) (s : State) (hs : s.tp.rx = none) (h : trunkLength (bytesOf l) = some l.length) :
    receiveTrunk l s =
      takeFrame (bytesOf l) (anyFramingError l) (s.onTp fun p => { p with rx := none, idleTicks := 0 }) := by
  have hne : l ≠ [] := by rintro rfl; simp [bytesOf, trunkLength] at h
  obtain ⟨m, c, rfl⟩ : ∃ m c, l = m ++ [c] := ⟨l.dropLast, l.getLast hne, (List.dropLast_append_getLast hne).symm⟩
  have hm : m ≠ [] := by rintro rfl; simp [bytesOf, trunkLength] at h
  unfold receiveTrunk
  rw [List.foldl_append, foldl_receiveCharacter_short m s [] (by rw [hs]; rfl) hm (fun n hn => by
    have hn' : trunkLength (bytesOf (m ++ [c])) = some n := by
      have := trunkLength_append (m := bytesOf [c]) hn
      simpa [bytesOf] using this
    rw [h] at hn'
    simp only [Option.some.injEq, List.length_append, List.length_cons, List.length_nil] at hn' ⊢
    omega)]
  simp only [List.foldl_cons, List.foldl_nil, List.nil_append]
  unfold receiveCharacter
  simp only [State.onTp_tp, Option.getD_some]
  rw [h]
  simp [State.onTp]

end Sys2Proof.Machine
end

