-- ==== Sys2Proof/Laws/Round.lean ====
section
/-! SUPPORT. What the walks of a poll round do: what is next to send, poll or probe, and how a phase with nothing left to do gives way to the next. -/

namespace Sys2Proof.Machine

/-! ### What is next -/

theorem sendableFrom_eq_none_iff (heads : Table HeadEntry) (q : List SwitchEntry) (pos : Nat) :
    sendableFrom heads q pos = none ↔ ∀ e ∈ q.drop pos, (tableGet HeadEntry.initial heads e.addr.head).state ≠ .present := by
  simp [sendableFrom]

theorem pollDue_iff (m : MeterLink) (a : Nat) :
    pollDue m a = true ↔ (tableGet HeadEntry.initial m.heads a).state ≠ .absent ∧ tableGet .notReached m.marks a ≠ .answered := by
  simp [pollDue]

theorem nextPoll_eq_none_iff (m : MeterLink) : nextPoll m = none ↔ ∀ a, m.pollPos ≤ a → a ≤ 32 → pollDue m a = false := by
  unfold nextPoll
  simp only [List.find?_eq_none, List.mem_range'_1, Bool.not_eq_true, Config.heads]
  exact ⟨fun h a h1 h2 => h a ⟨h1, by omega⟩, fun h a ha => h a ha.1 (by omega)⟩

theorem nextProbe_eq_none_iff (m : MeterLink) :
    nextProbe m = none ↔ ∀ a, 1 ≤ a → a ≤ 32 → (tableGet HeadEntry.initial m.heads a).state ≠ .absent := by
  unfold nextProbe
  simp only [List.find?_eq_none, List.mem_append, List.mem_range'_1, Config.heads, decide_eq_true_eq]
  refine ⟨fun h a h1 h2 => h a ?_, fun h a ha => h a (by omega) (by omega)⟩
  by_cases hp : a ≤ m.probePointer
  · exact Or.inr ⟨h1, by omega⟩
  · exact Or.inl (by omega)

/-! ### The phases -/

/-- The phases move nothing of MLC but the phase and the place of the poll walk. -/
theorem advancePhase_eq (m : MeterLink) :
    advancePhase m = { m with phase := (advancePhase m).phase, pollPos := (advancePhase m).pollPos } := by
  unfold advancePhase endProbePhase endPollPhase endSwitchPhase
  split_ifs <;> rfl

theorem leaveSwitchPhase_eq (m : MeterLink) :
    leaveSwitchPhase m = { m with phase := (leaveSwitchPhase m).phase, pollPos := (leaveSwitchPhase m).pollPos } := by
  unfold leaveSwitchPhase
  split_ifs
  · exact advancePhase_eq m
  · rfl

/-- The poll phase with no exchange open: it stays while an address from its walk on is due, else the probe phase follows while an address is
ABSENT, else the round is complete. -/
theorem advancePhase_of_poll {m : MeterLink} (hp : m.phase = .poll) (hw : m.wait = none) (hr : m.repollDue = none) :
    (advancePhase m).pollPos = m.pollPos ∧
      ((advancePhase m).phase = .poll ↔ ∃ a, m.pollPos ≤ a ∧ a ≤ 32 ∧ pollDue m a = true) ∧
      ((advancePhase m).phase = .probe ↔ (∀ a, m.pollPos ≤ a → a ≤ 32 → pollDue m a = false) ∧
        ∃ a, 1 ≤ a ∧ a ≤ 32 ∧ (tableGet HeadEntry.initial m.heads a).state = .absent) ∧
      (advancePhase m).phase ≠ .idle ∧ (advancePhase m).phase ≠ .switch := by
  have hpoll : (∃ a, m.pollPos ≤ a ∧ a ≤ 32 ∧ pollDue m a = true) ↔ nextPoll m ≠ none := by
    simp [nextPoll_eq_none_iff]
  have hprobe : (∃ a, 1 ≤ a ∧ a ≤ 32 ∧ (tableGet HeadEntry.initial m.heads a).state = .absent) ↔ nextProbe m ≠ none := by
    simp [nextProbe_eq_none_iff]
  have hend : endSwitchPhase m = m := by simp [endSwitchPhase, hp]
  rw [hpoll, hprobe, ← nextPoll_eq_none_iff, advancePhase, hend]
  by_cases h1 : nextPoll m = none
  · have h2 : endPollPhase m = { m with phase := .probe } := if_pos ⟨hp, hw, hr, h1⟩
    rw [h2]
    by_cases h4 : nextProbe m = none
    · have h5 : endProbePhase { m with phase := .probe } = { m with phase := .complete } := if_pos ⟨rfl, hw, h4⟩
      simp [h5, h1, h4]
    · have h5 : endProbePhase { m with phase := .probe } = { m with phase := .probe } := if_neg fun h => h4 h.2.2
      simp [h5, h1, h4]
  · have h2 : endPollPhase m = m := if_neg fun h => h1 h.2.2.2
    simp [h2, endProbePhase, hp, h1]

/-- An exchange that is open, or a re-poll that is due, holds the poll phase; an open exchange holds the probe phase. -/
theorem advancePhase_of_busy {m : MeterLink}
    (h : m.phase = .poll ∧ (m.wait ≠ none ∨ m.repollDue ≠ none) ∨ m.phase = .probe ∧ m.wait ≠ none ∨ m.phase = .idle ∨ m.phase = .complete) :
    advancePhase m = m := by
  unfold advancePhase endProbePhase endPollPhase endSwitchPhase
  rcases h with ⟨h, hw | hr⟩ | ⟨h, hw⟩ | h | h <;> simp [*]

/-- The switch phase stays while an entry from its walk on can be sent. -/
theorem advancePhase_of_sendable {m : MeterLink} (h : sendableFrom m.heads m.switchQueue m.walkPos ≠ none) (hp : m.phase = .switch) :
    advancePhase m = m := by
  unfold advancePhase endProbePhase endPollPhase endSwitchPhase
  simp [h, hp]

/-- A switch phase with nothing left to send gives way to the poll phase at address 1. -/
theorem advancePhase_of_sent {m : MeterLink} (h : sendableFrom m.heads m.switchQueue m.walkPos = none) (hp : m.phase = .switch) :
    advancePhase m = advancePhase { m with phase := .poll, pollPos := 1 } := by
  unfold advancePhase
  simp [endSwitchPhase, h, hp]

/-- Outside the switch phase an emptied queue moves nothing. -/
theorem leaveSwitchPhase_of_ne {m : MeterLink} (h : m.phase ≠ .switch) : leaveSwitchPhase m = m := if_neg h

end Sys2Proof.Machine
end

