-- ==== Sys2Proof/Laws/Settle.lean ====
section
/-! SUPPORT. What a settle and the three rows that name what happens in it do: the tenant's state through the steps, the stage step that part 1 leads to, and the settle as that stage step followed by the summary and the slot. -/

namespace Sys2Proof.Machine

variable {s : State}

/-! ### What leaves the state and the contract of a tenant -/

@[simp] theorem latchTenant_esc (c : TenantCause) (t m : Nat) (s : State) : (latchTenant c t s).esc m = s.esc m := by
  unfold latchTenant; split_ifs <;> rfl

@[simp] theorem latchTenant_tenant (c : TenantCause) (t m : Nat) (s : State) : (latchTenant c t s).tenant m = s.tenant m := by
  unfold latchTenant; split_ifs <;> rfl

@[simp] theorem setTenantMask_tenant (t m : Nat) (mask : BitVec 16) (s : State) : (setTenantMask t mask s).tenant m = s.tenant m := rfl

theorem applyPending_state (t : Nat) (s : State) : ((applyPending t s).tenant t).state = (s.tenant t).state := by
  unfold applyPending
  cases (s.tenant t).contract <;> cases (s.tenant t).pendingLimits <;> simp [onTenant]

theorem applyPending_contract (t : Nat) (s : State) :
    ((applyPending t s).tenant t).contract =
      (s.tenant t).contract.map fun k => { k with limits := (s.tenant t).pendingLimits.getD k.limits } := by
  unfold applyPending
  cases h : (s.tenant t).contract <;> cases (s.tenant t).pendingLimits <;> simp [onTenant, h]

theorem addLifetime_state (x : IntervalTotal) (s : State) : ((addLifetime x s).tenant x.tenant).state = (s.tenant x.tenant).state := by
  unfold addLifetime; dsimp only; split_ifs <;> simp

theorem addLifetime_contract (x : IntervalTotal) (s : State) :
    ((addLifetime x s).tenant x.tenant).contract = (s.tenant x.tenant).contract := by
  unfold addLifetime; dsimp only; split_ifs <;> simp

theorem applyAllowance_state (t : Nat) (a : AllowanceStep) (s : State) :
    ((applyAllowance t a s).tenant t).state = (s.tenant t).state := by
  unfold applyAllowance; dsimp only; split_ifs <;> simp [onTenant]

theorem evaluate_state (k : LimitFields) (t : Nat) (kind : MachineKind) (c : Period) (complete : Bool) (ev : Option Evaluation) (s : State)
    (m : Nat) : ((evaluate k t kind c complete ev s).1.tenant m).state = (s.tenant m).state := by
  have hk : ∀ (r : Tenant) (x : ExceedanceMachine), (r.setMachine kind x).state = r.state := by intro r x; cases kind <;> rfl
  unfold evaluate
  split
  · rfl
  · dsimp only
    unfold latchMove
    by_cases hm : m = t
    · subst hm; split <;> simp [hk]
    · split <;> simp [State.tenant_setTenant_other s _ (Ne.symm hm)]

theorem bucketStep_state (active both : Bool) (k : Contract) (x : IntervalTotal) (fs : List FeedLimit) (s : State) :
    ((bucketStep active both k x fs s).1.tenant x.tenant).state = (s.tenant x.tenant).state := by
  unfold bucketStep demandComputation
  dsimp only
  split
  · split
    · split
      · rw [evaluate_state]; simp [onTenant]
      · simp [onTenant]
    · simp
  · simp

/-! ### Part 1 of ES's step (R147, R148) -/

/-- Part 1 changes nothing of a tenant whose stage is not IDLE. -/
theorem foldl_takeTransition_of_ne_idle (k : LimitFields) (t : Nat) (xs : List Transition) (h : (s.esc t).stage ≠ .idle) :
    xs.foldl (takeTransition k t) s = s := by
  induction xs with
  | nil => rfl
  | cons x xs ih =>
    have hx : takeTransition k t s x = s := by unfold takeTransition; rw [if_neg fun c => h c.2]
    rw [List.foldl_cons, hx, ih]

theorem foldl_takeTransition_state (k : LimitFields) (t m : Nat) (xs : List Transition) :
    ∀ s : State, ((xs.foldl (takeTransition k t) s).tenant m).state = (s.tenant m).state := by
  induction xs with
  | nil => intro s; rfl
  | cons x xs ih =>
    intro s
    rw [List.foldl_cons, ih]
    unfold takeTransition
    split_ifs
    · split
      · rfl
      · rfl
      · unfold enterShedding; rw [latchTenant_tenant]; rfl
    · rfl

/-- A countdown that part 1 loads is at least 4, so a tenant ARMED with a countdown of 1 after part 1 was so before it. -/
theorem armed_before_foldl_takeTransition (k : LimitFields) (t : Nat) (xs : List Transition) :
    ∀ s : State, ((xs.foldl (takeTransition k t) s).esc t).stage = .armed → ((xs.foldl (takeTransition k t) s).esc t).countdown = some 1 →
      (s.esc t).stage = .armed := by
  induction xs with
  | nil => intro s h _; exact h
  | cons x xs ih =>
    intro s h1 h2
    rw [List.foldl_cons] at h1 h2
    by_cases hi : (s.esc t).stage = .idle
    · have h3 := ih _ h1 h2
      rw [foldl_takeTransition_of_ne_idle k t xs (by rw [h3]; decide)] at h2
      unfold takeTransition at h2 h3
      split_ifs at h2 h3
      · cases hk : k.action <;> simp only [hk] at h2 h3
        · rw [hi] at h3; exact absurd h3 (by decide)
        · simp [armDelay] at h2
        · simp [enterShedding] at h3
      · rw [hi] at h3; exact absurd h3 (by decide)
    · have hx : takeTransition k t s x = s := by unfold takeTransition; rw [if_neg fun c => hi c.2]
      rw [hx] at h1 h2; exact ih s h1 h2

/-- The step of an ACTIVE settle is the stage step of what part 1 leaves, unless part 1 has just armed the tenant. -/
theorem esActive_eq_stageStep (k : LimitFields) (t : Nat) (xs : List Transition) (handed : List HandedFeed) (s : State)
    (hc : ((xs.foldl (takeTransition k t) s).esc t).stage = .armed → ((xs.foldl (takeTransition k t) s).esc t).countdown = some 1) :
    esActive k t xs handed s = stageStep t handed (xs.foldl (takeTransition k t) s) := by
  unfold esActive
  dsimp only
  rw [if_neg]
  rintro ⟨a, b⟩
  exact a (armed_before_foldl_takeTransition k t xs s b (hc b))

/-! ### The settle from its stage step on -/

theorem stageEntryUnder_state (k : Contract) (x : IntervalTotal) (s : State) :
    ((stageEntryUnder k x s).state.tenant x.tenant).state = (s.tenant x.tenant).state := by
  unfold stageEntryUnder evaluateActive burstCheck
  dsimp only
  split_ifs
  · rw [foldl_takeTransition_state, bucketStep_state, evaluate_state, applyAllowance_state]
  · rw [bucketStep_state, applyAllowance_state]

/-- A settle whose stage step is taken is that stage step, then the summary, the last settled period and the slot. -/
theorem settle_of_stageEntry {x : IntervalTotal} {e : StageEntry} (h : stageEntry s x = some e)
    (hc : (e.state.esc x.tenant).stage = .armed → (e.state.esc x.tenant).countdown = some 1)
    (hi : (e.state.tenant x.tenant).state = .active ∨ (e.state.esc x.tenant).stage = .restoring) :
    ∃ k, settle s x =
      slotStep x.tenant x.period (onTenant x.tenant (fun r => { r with lastSettled := some x.period })
        (summaryStep k x (stageStep x.tenant e.handed e.state))) := by
  unfold stageEntry at h
  split_ifs at h with hv
  dsimp only at h
  obtain ⟨k, hk, rfl⟩ := Option.map_eq_some_iff.1 h
  refine ⟨k, ?_⟩
  have hs := stageEntryUnder_state k x (addLifetime x (applyPending x.tenant s))
  have hu : settle s x = settleUnder k x (addLifetime x (applyPending x.tenant s)) := by
    unfold settle
    rw [if_neg hv]
    dsimp only
    rw [hk]
  rw [hu]
  generalize addLifetime x (applyPending x.tenant s) = y at *
  unfold settleUnder
  dsimp only
  by_cases ha : (y.tenant x.tenant).state = .active
  · rw [if_pos (by rw [applyAllowance_state]; exact ha)]
    unfold stageEntryUnder at hc hi ⊢
    dsimp only at hc hi ⊢
    rw [if_pos (by rw [applyAllowance_state]; exact ha)] at hc hi ⊢
    unfold judgeActive
    dsimp only
    rw [esActive_eq_stageStep _ _ _ _ _ hc]
  · rw [if_neg (by rw [applyAllowance_state]; exact ha)]
    unfold stageEntryUnder at hc hi hs ⊢
    dsimp only at hc hi hs ⊢
    rw [if_neg (by rw [applyAllowance_state]; exact ha)] at hc hi hs ⊢
    have hr := hi.resolve_left (by rw [hs]; exact ha)
    unfold recordPassive esPassive stageStep
    rw [if_pos hr, hr]

/-! ### The rows that name what happens at a settle -/

/-- The close splits at the first total of a tenant. -/
theorem find?_tenant_split {t : Nat} {l : List IntervalTotal} {x : IntervalTotal} (h : l.find? (fun y => decide (y.tenant = t)) = some x) :
    x.tenant = t ∧ (∀ y ∈ l.takeWhile (fun y => decide (y.tenant ≠ t)), y.tenant ≠ t) ∧
      ∃ after, l = l.takeWhile (fun y => decide (y.tenant ≠ t)) ++ x :: after := by
  induction l with
  | nil => simp at h
  | cons a l ih =>
    by_cases ha : a.tenant = t
    · simp only [ha, decide_true, List.find?_cons_of_pos, Option.some.injEq] at h
      subst h
      simp [ha]
    · simp only [ha, decide_false, Bool.false_eq_true, not_false_eq_true, List.find?_cons_of_neg] at h
      simpa [ha] using ih h

theorem judgedClose_eq_some_iff {c : Period} {f : FeedStates} :
    s.judgedClose = some (c, f) ↔ ∃ rest, s.oae.closes = { period := c, feeds := some f } :: rest := by
  unfold State.judgedClose
  cases hc : s.oae.closes with
  | nil => simp
  | cons w rest =>
    obtain ⟨p, o⟩ := w
    cases o <;> simp

/-- Without a close, or before its round has been judged, no close can run. -/
theorem judgedClose_eq_none_iff : s.judgedClose = none ↔ ∀ w rest, s.oae.closes = w :: rest → w.feeds = none := by
  unfold State.judgedClose
  cases hc : s.oae.closes <;> simp

theorem closePeriod_of_judged {c : Period} {f : FeedStates} {rest : List WaitingClose}
    (h : s.oae.closes = { period := c, feeds := some f } :: rest) :
    closePeriod s = runClose c f (s.onOae fun o => { o with closes := rest }) := by
  unfold closePeriod
  rw [judgedClose_eq_some_iff.2 ⟨rest, h⟩]
  simp only [takeClose, State.onOae, h, List.tail_cons]

theorem closePeriod_of_not_judged (h : ∀ w rest, s.oae.closes = w :: rest → w.feeds = none) : closePeriod s = s := by
  unfold closePeriod
  rw [judgedClose_eq_none_iff.2 h]

/-- A close in which the stage step of a tenant is of a kind: the settles before it, that settle, the settles after it. -/
theorem closePeriod_of_closeReaches {t : Nat} {e : StageEntry} (h : closeReaches t s = some e) :
    ∃ (w : State) (x : IntervalTotal) (after : List IntervalTotal), x.tenant = t ∧ stageEntry w x = some e ∧
      closePeriod s = after.foldl settle (settle w x) := by
  unfold closeReaches at h
  unfold closePeriod
  cases hc : s.judgedClose with
  | none => rw [hc] at h; cases h
  | some p =>
    rw [hc] at h
    dsimp only at h ⊢
    obtain ⟨x, hx, he⟩ := Option.bind_eq_some_iff.1 h
    obtain ⟨h1, -, after, h3⟩ := find?_tenant_split hx
    refine ⟨_, x, after, h1, he, ?_⟩
    unfold runClose
    conv_lhs => rw [h3]
    rw [List.foldl_append, List.foldl_cons]

/-- A row that names what happens at a stage step changes nothing unless that close is next. -/
theorem closeWith_of_not {t : Nat} {kind : StageEntry → Bool} (h : closeHolds t kind s = false) : closeWith t kind s = s := by
  unfold closeWith; rw [h]; rfl

theorem closeWith_of_holds {t : Nat} {kind : StageEntry → Bool} (h : closeHolds t kind s = true) :
    closeWith t kind s = closePeriod s := by
  unfold closeWith; rw [h]; rfl

end Sys2Proof.Machine
end

