-- ==== Sys2Proof/WellFormed.lean ====
section
/-! DEFINITION. Which commands can be written on the part's links and pins: every operand fits the bytes that carry it (11.2 to 11.5). A field that fits its bytes and lies outside its stated range is well formed; the owner of the order refuses it (R204). -/

namespace Sys2Proof

/-- A number that one byte carries. -/
def fitsByte (n : Nat) : Bool := n < 256

/-- A number that two bytes carry. -/
def fitsTwo (n : Nat) : Bool := n < 65536

/-- A number that three bytes carry. -/
def fitsThree (n : Nat) : Bool := n < 16777216

/-- The parameter bytes of CONFIGURE-UNIT (11.5). -/
def UnitFields.wf (f : UnitFields) : Bool :=
  fitsByte f.il && fitsTwo f.voltA && fitsTwo f.voltB && fitsByte f.staleLimit && fitsByte f.lostLimit
    && fitsByte f.restoreCount && fitsTwo f.threshold && fitsByte f.forwardMode

/-- The parameter bytes of BIND-OUTLET: the payload of 7 + 3n bytes is at most 255 (10.1, 11.5). -/
def BindFields.wf (f : BindFields) : Bool :=
  fitsByte f.head && fitsByte f.outlet && fitsByte f.feed && fitsByte f.current && fitsByte f.priority
    && decide (f.entries.length ≤ 82) && f.entries.all (fun e => fitsByte e.1 && fitsTwo e.2)

/-- The parameter bytes of SET-CONTRACT (11.5). -/
def ContractFields.wf (f : ContractFields) : Bool :=
  fitsByte f.cls && fitsThree f.capacity1 && fitsThree f.capacity2 && fitsByte f.burstPercent
    && fitsByte f.hysteresis && fitsByte f.demandGrace && fitsByte f.burstGrace && fitsByte f.easeCount
    && fitsByte f.bucketLength && fitsByte f.buckets && fitsByte f.windowMode && fitsByte f.action
    && fitsByte f.delayCode && fitsByte f.source && fitsByte f.summary

/-- A tenant number that exists (5.3). -/
def isTenant (t : Nat) : Bool := 1 ≤ t && t ≤ Config.tenants

/-- What TL can hand ES: no feed, the pooled value alone, or feeds A and B at most once each, in this order (R128). -/
def handedWf (h : List HandedFeed) : Bool :=
  ((h.map HandedFeed.scope) ∈ [[], [Scope.pooled], [Scope.feedA], [Scope.feedB], [Scope.feedA, Scope.feedB]])
    && h.all (fun f => f.value ≤ Config.wattMax && f.limit ≤ 2097150 && f.exit ≤ f.limit)

/-- A character begins with a start bit of 0; with a 1 the line is idle (R202). -/
def Character.starts (c : Character) : Bool := !c.getLsbD 9

/-- The well-formed commands. -/
def WellFormed : Instr → Bool
  | .powerOn _ _ => true
  | .pinReset _ _ => true
  | .tick => true
  | .cadenceExpiry => true
  | .sync => true
  | .switch => true
  | .poll => true
  | .probe => true
  | .replyWaitClose => true
  | .replyFrame first rest => (first :: rest).all Character.starts
  | .strayFrame => true
  | .roundEnd => true
  | .deliveryTake records => decide (records ≠ some 0)
  | .close => true
  | .armExpiry t h => isTenant t && handedWf h
  | .shedFailed t h => isTenant t && handedWf h
  | .restoreLimit t => isTenant t
  | .trunkFrame first rest => (first :: rest).length ≤ 261 && (first :: rest).all Character.starts
  | .replyWindowExpiry => true
  | .replyStart => true
  | .frameTransmitEnd => true
  | .arbitrationLost _ => true
  | .idleGap => true
  | .identify _ => true
  | .resetUnit _ option => fitsByte option
  | .fullReset => true
  | .accountsReset => true
  | .broadcastHalt => true
  | .broadcastResetUnit option => fitsByte option
  | .lockGroups _ _ => true
  | .unlockGroups _ _ => true
  | .configureUnit _ f => f.wf
  | .start _ => true
  | .halt _ => true
  | .forgetHead _ head => fitsByte head
  | .bindOutlet _ f => f.wf
  | .alterOutlet _ head outlet current priority =>
      fitsByte head && fitsByte outlet && fitsByte current && fitsByte priority
  | .releaseOutlet _ head outlet => fitsByte head && fitsByte outlet
  | .readOutlet _ head outlet => fitsByte head && fitsByte outlet
  | .setContract _ t f => fitsByte t && f.wf
  | .holdTenant _ t => fitsByte t
  | .resumeTenant _ t => fitsByte t
  | .closeTenant _ t => fitsByte t
  | .statement _ t clearPeak => fitsByte t && fitsByte clearPeak
  | .resetTenant _ t => fitsByte t
  | .restoreOutlets _ t => fitsByte t
  | .ackNotice _ source _ => fitsByte source
  | .setNoticeMask _ _ => true
  | .trunkReceptionIdleEnd => true

end Sys2Proof
end

