-- ==== Sys2Proof/Tests/Slice0.lean ====
section
/-! SUPPORT. The model's own tests: ill-formed commands that the check refuses, order payloads, check values, one or two steps of each command, and a witness for the hypotheses of each statement. -/

namespace Sys2Proof.Tests

set_option Elab.async false

open Sys2Proof Sys2Proof.Machine Sys2Proof.Stated

/-! ### Small states -/

/-- The order is with its owner. -/
def owning (c : Instr) (s : State) : State := { s with tp := { s.tp with path := .atOwner c } }

/-- Without broadcasts that wait, the hypothesis of the statements about an order with its owner. -/
theorem test_witness_AtOwner (c : Instr) (s : State) (h : s.tp.broadcasts = []) : AtOwner c (owning c s) := ⟨rfl, h⟩

/-- The state after a command. -/
def after (c : Instr) (s : State) : State :=
  match exec c s with
  | .next t => t
  | _ => s

/-- The status in the Reply slot. -/
def status (s : State) : Option Status := s.tp.slot.map Reply.status

/-- The result in the Reply slot. -/
def result (s : State) : List Byte := (s.tp.slot.map Reply.result).getD []

/-- A unit in RUNNING with `c` ticks to the expiry. -/
def running (c : Nat) : State :=
  { State.reset with ct := { State.reset.ct with runState := .running, configured := true, countdown := some c } }

/-- A unit in HALTED at period 4. -/
def halted : State := { State.reset with ct := { State.reset.ct with runState := .halted, configured := true, n := 4 } }

/-- A unit whose MLC is `m`. -/
def linked (m : MeterLink) : State := { State.reset with mlc := m }

/-- The characters of a frame, every stop bit read as 0. -/
def broken (bytes : List Byte) : List Character := (sentCharacters bytes).map fun c => c &&& 0x3FE

/-- REPLY_FRAME with the characters of a list that is not empty. -/
def replyOf (chars : List Character) : Instr := .replyFrame (chars.headD 0) chars.tail

/-- TRUNK_FRAME with the characters of a list that is not empty. -/
def trunkOf (chars : List Character) : Instr := .trunkFrame (chars.headD 0) chars.tail

/-- A unit whose TP is `p`. -/
def trunk (p : TrunkPort) : State := { State.reset with tp := p }

/-- A head in PRESENT that has answered. -/
def presentHead : HeadEntry :=
  { HeadEntry.initial with state := .present, lastSeq := some 7, lastStamp := some 0, lastFlags := some { a := true, b := true } }

/-- A pooled contract of 10 kW: L 1, B 2. -/
def fields : ContractFields :=
  { cls := 0, capacity1 := 10000, capacity2 := 0, burstPercent := 150, hysteresis := 40, demandGrace := 1, burstGrace := 1, easeCount := 1
    bucketLength := 1, buckets := 2, windowMode := 0, action := 1, delayCode := 0, source := 1, summary := 1, mask := 0x07FF }

/-- A unit with tenant 1 in a state, its lock group as `locked` says. -/
def housing (st : TenantState) (locked : Bool := false) : State :=
  let s := State.reset.setTenant 1 { Tenant.initial with state := st, contract := some (contractOf fields) }
  { s with tl := { s.tl with count := 1 }, tp := { s.tp with lockMap := if locked then 1 else 0 } }

/-- A unit with tenant 1 whose slot and stage are given. -/
def staged (st : TenantState) (slot : LongSlot) (e : Escalation) : State :=
  let s := housing st
  (s.setTenant 1 { s.tenant 1 with slot := slot }).setEsc 1 e

/-- Outlet 1.0 bound to tenant 1, LIVE and ON, with a held rate of 5 W. -/
def ownOutlet : Outlet :=
  { Outlet.initial with
    binding := .bound, shares := [{ tenant := 1, share := 256, rate := 5 }], priority := 1, bindSeq := 1, baseline := .live
    lastCounter := 100, lastStamp := 3, switchState := .on }

/-- A unit with tenant 1 and its outlet 1.0 in a collecting period. -/
def wired (o : Outlet) : State :=
  let s := (housing .active).setOutlet 48 o
  { s with ct := { s.ct with runState := .running, configured := true, countdown := some 50, n := 4, collectingOpen := true } }

/-- A Completion Queue of 32 entries. -/
def fullQueue : List Completion := List.replicate 32 { code := 0x32, tag := 0, outcome := .released, body := .tenant 1 }

/-- A unit whose Completion Queue is full. -/
def crowded (s : State) : State := { s with tp := { s.tp with completions := fullQueue } }

/-! ### Well-formedness: one ill-formed command for each check -/

theorem test_illformed_frames :
    WellFormed (.replyFrame 0x200 []) = false ∧ WellFormed (.replyFrame 0x001 [0x3FF]) = false ∧ WellFormed (.replyFrame 0x1FF []) = true ∧
      WellFormed (.trunkFrame 0x3FF []) = false ∧ WellFormed (.trunkFrame 0x001 [0x3FF]) = false ∧
      WellFormed (trunkOf (List.replicate 262 0)) = false ∧ WellFormed (trunkOf (List.replicate 261 0)) = true := by
  decide +kernel

theorem test_illformed_delivery_take :
    WellFormed (.deliveryTake (some 0)) = false ∧ WellFormed (.deliveryTake (some 1)) = true ∧ WellFormed (.deliveryTake none) = true := by
  decide +kernel

theorem test_illformed_tenant_numbers :
    WellFormed (.armExpiry 0 []) = false ∧ WellFormed (.armExpiry 128 []) = false ∧ WellFormed (.shedFailed 0 []) = false ∧
      WellFormed (.shedFailed 128 []) = false ∧ WellFormed (.restoreLimit 0) = false ∧ WellFormed (.restoreLimit 128) = false ∧
      WellFormed (.restoreLimit 127) = true := by decide +kernel

theorem test_illformed_handed_values :
    WellFormed (.armExpiry 1 [{ scope := .feedB, value := 0, limit := 0, exit := 0 }, { scope := .feedA, value := 0, limit := 0, exit := 0 }]) = false ∧
      WellFormed (.shedFailed 1 [{ scope := .pooled, value := 16777216, limit := 0, exit := 0 }]) = false ∧
      WellFormed (.shedFailed 1 [{ scope := .pooled, value := 0, limit := 2097151, exit := 0 }]) = false ∧
      WellFormed (.shedFailed 1 [{ scope := .pooled, value := 0, limit := 5, exit := 6 }]) = false ∧
      WellFormed (.shedFailed 1 [{ scope := .pooled, value := 16777215, limit := 2097150, exit := 2097150 }]) = true := by decide +kernel

/-- Fields of CONFIGURE-UNIT in range. -/
def unitFields : UnitFields :=
  { il := 1, voltA := 90, voltB := 500, staleLimit := 15, lostLimit := 1, restoreCount := 60, threshold := 65535, forwardMode := 1 }

theorem test_illformed_configure_unit :
    WellFormed (.configureUnit 0 unitFields) = true ∧ WellFormed (.configureUnit 0 { unitFields with il := 256 }) = false ∧
      WellFormed (.configureUnit 0 { unitFields with voltA := 65536 }) = false ∧
      WellFormed (.configureUnit 0 { unitFields with voltB := 65536 }) = false ∧
      WellFormed (.configureUnit 0 { unitFields with staleLimit := 256 }) = false ∧
      WellFormed (.configureUnit 0 { unitFields with lostLimit := 256 }) = false ∧
      WellFormed (.configureUnit 0 { unitFields with restoreCount := 256 }) = false ∧
      WellFormed (.configureUnit 0 { unitFields with threshold := 65536 }) = false ∧
      WellFormed (.configureUnit 0 { unitFields with forwardMode := 256 }) = false := by decide +kernel

/-- Fields of BIND-OUTLET in range. -/
def bindFields : BindFields := { head := 1, outlet := 0, feed := 0, current := 16, priority := 1, entries := [(1, 256)] }

theorem test_illformed_bind_outlet :
    WellFormed (.bindOutlet 0 bindFields) = true ∧ WellFormed (.bindOutlet 0 { bindFields with head := 256 }) = false ∧
      WellFormed (.bindOutlet 0 { bindFields with outlet := 256 }) = false ∧
      WellFormed (.bindOutlet 0 { bindFields with feed := 256 }) = false ∧
      WellFormed (.bindOutlet 0 { bindFields with current := 256 }) = false ∧
      WellFormed (.bindOutlet 0 { bindFields with priority := 256 }) = false ∧
      WellFormed (.bindOutlet 0 { bindFields with entries := List.replicate 83 (1, 1) }) = false ∧
      WellFormed (.bindOutlet 0 { bindFields with entries := [(256, 1)] }) = false ∧
      WellFormed (.bindOutlet 0 { bindFields with entries := [(1, 65536)] }) = false := by decide +kernel

theorem test_illformed_set_contract :
    WellFormed (.setContract 0 1 fields) = true ∧ WellFormed (.setContract 0 256 fields) = false ∧
      [{ fields with cls := 256 }, { fields with capacity1 := 16777216 }, { fields with capacity2 := 16777216 },
        { fields with burstPercent := 256 }, { fields with hysteresis := 256 }, { fields with demandGrace := 256 },
        { fields with burstGrace := 256 }, { fields with easeCount := 256 }, { fields with bucketLength := 256 },
        { fields with buckets := 256 }, { fields with windowMode := 256 }, { fields with action := 256 }, { fields with delayCode := 256 },
        { fields with source := 256 }, { fields with summary := 256 }].all (fun f => !WellFormed (.setContract 0 1 f)) = true := by
  decide +kernel

theorem test_illformed_order_bytes :
    [Instr.resetUnit 0 256, .broadcastResetUnit 256, .forgetHead 0 256, .alterOutlet 0 256 0 1 0, .alterOutlet 0 1 256 1 0,
      .alterOutlet 0 1 0 256 0, .alterOutlet 0 1 0 1 256, .releaseOutlet 0 256 0, .releaseOutlet 0 1 256, .readOutlet 0 256 0,
      .readOutlet 0 1 256, .holdTenant 0 256, .resumeTenant 0 256, .closeTenant 0 256, .statement 0 256 0, .statement 0 1 256,
      .resetTenant 0 256, .restoreOutlets 0 256, .ackNotice 0 256 0].all (fun c => !WellFormed c) = true := by decide +kernel

/-! ### Order payloads and check values -/

/-- The payload of 11.5 for each order of fixed length, with bytes that tell the fields apart. -/
theorem test_decode_configure_unit :
    decodeOrder 9 0x10 [0x05, 0x00, 0xE6, 0x01, 0x90, 0x03, 0x0A, 0x06, 0x12, 0x34, 0x01] =
      some (.configureUnit 9
        { il := 5, voltA := 230, voltB := 400, staleLimit := 3, lostLimit := 10, restoreCount := 6, threshold := 4660, forwardMode := 1 }) := by
  decide +kernel

theorem test_decode_bind_outlet :
    decodeOrder 9 0x30 [0x07, 0x0C, 0x01, 0x10, 0x00, 0x02, 0x05, 0x00, 0xC0, 0x06, 0x00, 0x40] =
        some (.bindOutlet 9 { head := 7, outlet := 12, feed := 1, current := 16, priority := 0, entries := [(5, 192), (6, 64)] }) ∧
      decodeOrder 9 0x30 [0x07, 0x0C, 0x01, 0x10, 0x00, 0x02, 0x05, 0x00, 0xC0] = none ∧
      decodeOrder 9 0x30 [0x07, 0x0C, 0x01, 0x10, 0x00, 0x00] =
        some (.bindOutlet 9 { head := 7, outlet := 12, feed := 1, current := 16, priority := 0, entries := [] }) := by decide +kernel

theorem test_decode_set_contract :
    decodeOrder 9 0x40
        [0x15, 0x01, 0x00, 0x5D, 0xC0, 0x00, 0x3A, 0x98, 0x96, 0x28, 0x02, 0x03, 0x04, 0x3C, 0x0F, 0x01, 0x02, 0x05, 0x01, 0x00, 0x07, 0xFE] =
      some (.setContract 9 21
        { cls := 1, capacity1 := 24000, capacity2 := 15000, burstPercent := 150, hysteresis := 40, demandGrace := 2, burstGrace := 3
          easeCount := 4, bucketLength := 60, buckets := 15, windowMode := 1, action := 2, delayCode := 5, source := 1, summary := 0
          mask := 0x07FE }) := by decide +kernel

theorem test_decode_short_orders :
    decodeOrder 9 0x01 [] = some (.identify 9) ∧ decodeOrder 9 0x01 [0] = none ∧ decodeOrder 9 0x02 [2] = some (.resetUnit 9 2) ∧
      decodeOrder 9 0x03 [0x80, 0x01] = some (.lockGroups 9 0x8001) ∧ decodeOrder 9 0x04 [0x00, 0xFF] = some (.unlockGroups 9 0x00FF) ∧
      decodeOrder 9 0x11 [] = some (.start 9) ∧ decodeOrder 9 0x12 [] = some (.halt 9) ∧ decodeOrder 9 0x20 [33] = some (.forgetHead 9 33) ∧
      decodeOrder 9 0x31 [1, 2, 3, 4] = some (.alterOutlet 9 1 2 3 4) ∧ decodeOrder 9 0x32 [1, 2] = some (.releaseOutlet 9 1 2) ∧
      decodeOrder 9 0x33 [1, 2] = some (.readOutlet 9 1 2) := by decide +kernel

theorem test_decode_tenant_and_notice_orders :
    decodeOrder 9 0x41 [1] = some (.holdTenant 9 1) ∧ decodeOrder 9 0x42 [1] = some (.resumeTenant 9 1) ∧
      decodeOrder 9 0x43 [1] = some (.closeTenant 9 1) ∧ decodeOrder 9 0x44 [1, 2] = some (.statement 9 1 2) ∧
      decodeOrder 9 0x45 [1] = some (.resetTenant 9 1) ∧ decodeOrder 9 0x50 [1] = some (.restoreOutlets 9 1) ∧
      decodeOrder 9 0x60 [1, 0x04, 0x20] = some (.ackNotice 9 1 0x0420) ∧ decodeOrder 9 0x61 [0x03, 0xFE] = some (.setNoticeMask 9 0x03FE) ∧
      decodeOrder 9 0x00 [] = none ∧ decodeBroadcast 0x12 [] = some .broadcastHalt ∧ decodeBroadcast 0x02 [1] = some (.broadcastResetUnit 1) ∧
      decodeBroadcast 0x11 [] = none ∧ decodeBroadcast 0x12 [0] = none := by decide +kernel

/-- No row of the table gives a bit, so no word spells a command. -/
theorem test_no_word_spells_a_command : decodeTableWord 8 0x12 = none ∧ State.reset.withFetchWord 8 0x12 = State.reset := by decide +kernel

/-- The check value of the ASCII digits 1 to 9 under the CRC-16 of R180, a register that starts at 0xFFFF. -/
theorem test_crc16_of_digits : crc16 [0x31, 0x32, 0x33, 0x34, 0x35, 0x36, 0x37, 0x38, 0x39] = 0xAEE7 := by decide +kernel

/-- One bit through the CRC-8 register of R15 leaves the generator; a frame with its check value leaves 0. -/
theorem test_crc8_of_one_bit : crc8 [0x01] = 0x35 ∧ crc8 (withCrc8 [0x07, 0x02]) = 0 := by decide +kernel

/-- The line of 11.1: a start bit, the byte from its most significant bit on, a stop bit; a stop bit read as 0 is a framing error. -/
theorem test_character :
    sentCharacter 0x81 = 0x103 ∧ lineLevels [0x81] = [false, true, false, false, false, false, false, false, true, true] ∧
      bytesOf [0x103, 0x102] = [0x81, 0x81] ∧ anyFramingError [0x103] = false ∧ anyFramingError [0x103, 0x102] = true := by decide +kernel

/-! ### Witnesses: the order path and the resets -/

theorem test_witness_StepRunsTheFrontCommand :
    State.reset.pending = [] ∧ (∃ t, step { running 2 with pending := [.tick, .tick] } = .next t ∧ t.pending = [.tick] ∧ t.ct.countdown = some 1) :=
  ⟨rfl, after .tick { running 2 with pending := [.tick] }, rfl, rfl, rfl⟩

/-- A reply being sent while the path is held by it. -/
def replyingPort : TrunkPort :=
  { State.reset.tp with
    path := .replying, sending := .reply, slot := some { tag := 1, code := 0x12, status := .incorrectState, result := [] } }

theorem test_witness_OrderCommandMeetsThePath :
    isOrder (.identify 1) = true ∧ State.reset.tp.sending = .nothing ∧ State.reset.tp.path = .free ∧
      (trunk { replyingPort with sending := .nothing }).tp.sending = .nothing ∧
      (trunk { replyingPort with sending := .nothing }).tp.path ≠ .free ∧
      (trunk { replyingPort with sending := .nothing }).tp.path ≠ .atOwner (.identify 1) ∧ (trunk replyingPort).tp.sending ≠ .nothing ∧
      (trunk replyingPort).tp.path ≠ .atOwner (.identify 1) := by decide +kernel

/-- A broadcast HALT that waits is acted on after the answer of the order it waited for. -/
theorem test_witness_OrderCommandMeetsThePath_waiting :
    (owning (.lockGroups 1 1) (trunk { State.reset.tp with broadcasts := [.broadcastHalt] })).tp.path = .atOwner (.lockGroups 1 1) ∧
      ∃ t, exec (.lockGroups 1 1)
        { running 5 with tp := { State.reset.tp with path := .atOwner (.lockGroups 1 1), broadcasts := [.broadcastHalt] } } = .next t ∧
        t.ct.runState = .halted ∧ t.tp.lockMap = 1 ∧ t.tp.broadcasts = [] ∧ t.tp.path = .replying :=
  ⟨rfl, _, rfl, by decide +kernel⟩

theorem test_order_frame_takes_the_free_path :
    status (after (.halt 5) State.reset) = some .incorrectState ∧
      (after (.halt 5) State.reset).tp.window = some { addr := 0, ticks := 0, own := true } ∧
      (after (.halt 5) (trunk { replyingPort with sending := .nothing })).tp.window = some { addr := 0, ticks := 0, own := false } := by
  decide +kernel

theorem test_power_on_samples_the_straps :
    (after (.powerOn 15 true) halted).tp.unitAddr = 15 ∧ (after (.powerOn 15 true) halted).tp.service = true ∧
      (after (.powerOn 15 true) halted).ct.n = 0 ∧ (after (.pinReset 3 false) halted).tp.resetCause = .resetPin := by decide +kernel

/-- The reply to an accepted RESET-UNIT is being sent. -/
def resetting (k : ResetKind) (s : State) : State := { s with tp := { replyingPort with reset := some k } }

theorem test_witness_FullResetReturnsTheFullValues :
    ((resetting .full halted).tp.sending = .reply ∧ (resetting .full halted).tp.reset = some .full) ∧ halted.tp.sending ≠ .reply ∧
      (after .frameTransmitEnd (resetting .full halted)).ct.runState = .config ∧
      (after .fullReset (resetting .full halted)).tp.resetCause = .orderFull ∧ after .fullReset halted = halted ∧
      after .fullReset (resetting .accounts halted) = resetting .accounts halted := by decide +kernel

/-- A notice in hand. -/
def aNotice : Notice := { source := 0, period := 0, latched := 8, unreported := 8, resetCause := some .powerOn }

theorem test_witness_AccountsResetKeepsTheBindings :
    ((resetting .accounts (wired ownOutlet)).tp.sending = .reply ∧ (resetting .accounts (wired ownOutlet)).tp.reset = some .accounts) ∧
      halted.tp.reset ≠ some .accounts ∧
      (trunk { replyingPort with inHand := some (.notice aNotice) }).tp.inHand = some (.notice aNotice) ∧
      (resetting .accounts (wired ownOutlet)).tp.inHand = none ∧
      ((after .accountsReset (resetting .accounts (wired ownOutlet))).outlet 48).binding = .bound ∧
      ((after .frameTransmitEnd (resetting .accounts (wired ownOutlet))).tenant 1).contract = some (contractOf fields) ∧
      (after .accountsReset (resetting .accounts (wired ownOutlet))).tp.path = .free := by decide +kernel

/-- RESET-UNIT with an option is with its owner, under a lock map and a service flag. -/
def resetOrder (option : Nat) (locks : BitVec 16) (service : Bool) : State :=
  owning (.resetUnit 1 option) (trunk { State.reset.tp with lockMap := locks, service := service })

theorem test_witness_ResetUnitOrder :
    (∀ o ∈ [0, 1, 2, 3, 255], (resetOrder o 1 false).tp.path = .atOwner (.resetUnit 1 o)) ∧ (0 ≠ 1 ∧ 0 ≠ 2) ∧
      ((resetOrder 1 1 false).tp.lockMap ≠ 0 ∧ (resetOrder 1 1 false).tp.service = false) ∧ (resetOrder 1 0 false).tp.lockMap = 0 ∧
      (resetOrder 1 1 true).tp.service = true ∧ status (after (.resetUnit 1 0) (resetOrder 0 0 true)) = some .invalidParameter ∧
      status (after (.resetUnit 1 3) (resetOrder 3 1 false)) = some .invalidParameter ∧
      status (after (.resetUnit 1 1) (resetOrder 1 1 false)) = some .locked ∧
      (after (.resetUnit 1 1) (resetOrder 1 1 true)).tp.reset = some .full ∧
      (after (.resetUnit 1 2) (resetOrder 2 1 false)).tp.reset = some .accounts := by decide +kernel

theorem test_witness_BroadcastOrdersActOrWait :
    (trunk replyingPort).tp.sending ≠ .nothing ∧ State.reset.tp.sending = .nothing ∧
      (owning (.start 1) State.reset).tp.path = .atOwner (.start 1) ∧
      (after .broadcastHalt (owning (.start 1) State.reset)).tp.broadcasts = [.broadcastHalt] ∧
      (after (.broadcastResetUnit 2) (after .broadcastHalt (owning (.start 1) State.reset))).tp.broadcasts =
        [.broadcastHalt, .broadcastResetUnit 2] ∧
      (after (.broadcastResetUnit 1) (trunk { State.reset.tp with lockMap := 1 })).tp.resetCause = .powerOn ∧
      (after (.broadcastResetUnit 1) halted).tp.resetCause = .orderFull ∧ (after (.broadcastResetUnit 2) halted).tp.resetCause = .orderAccounts ∧
      (after .broadcastHalt (trunk { State.reset.tp with window := some { addr := 3, ticks := 0, own := false } })).tp.window = none := by
  decide +kernel

/-- No unicast order is with its owner, or one is. -/
theorem test_witness_BroadcastOrdersActOrWait_owner : ¬ SomeAtOwner State.reset ∧ SomeAtOwner (owning (.start 1) State.reset) :=
  ⟨(by rintro ⟨o, h⟩; cases h), _, rfl⟩

/-- The switch phase at an ACCOUNTS reset: the queue is empty and the round goes on with its polls; another phase stays. -/
theorem test_witness_AccountsResetKeepsTheBindings_round :
    (after (.broadcastResetUnit 2) (linked { State.reset.mlc with phase := .switch, heads := [(1, presentHead)], pollPos := 9 })).mlc.phase = .poll ∧
      (after (.broadcastResetUnit 2) (linked { State.reset.mlc with phase := .switch, heads := [(1, presentHead)], pollPos := 9 })).mlc.pollPos = 1 ∧
      (after (.broadcastResetUnit 2) (linked { State.reset.mlc with phase := .poll, pollPos := 9 })).mlc =
        { State.reset.mlc with phase := .poll, pollPos := 9 } := by decide +kernel

/-- A broadcast RESET-UNIT that waited for an owner's answer meets a frame being transmitted (log entry 34): a summary is cut off, a notice goes
on at ACCOUNTS; and a delivery that is begun stays begun at ACCOUNTS and is gone at FULL (log entry 32). -/
def resetAmid (option : Nat) (f : UpFrame) : State :=
  { State.reset with
    oae := { State.reset.oae with taking := some { head := 1, stamp := 5, rest := [], entries := [] } }
    tp := { State.reset.tp with
      path := .atOwner (.identify 1), broadcasts := [.broadcastResetUnit option], sending := .inHand, inHand := some f } }

theorem test_reset_meets_a_transmission :
    (after (.identify 1) (resetAmid 2 (.notice aNotice))).tkDir = true ∧
      (after (.identify 1) (resetAmid 2 (.completion { code := 0x32, tag := 1, outcome := .released, body := .release { head := 1, outlet := 0 } }))).tkDir = false ∧
      (after (.identify 1) (resetAmid 1 (.notice aNotice))).tkDir = false ∧
      (after (.identify 1) (resetAmid 2 (.notice aNotice))).oae.taking ≠ none ∧
      (after (.identify 1) (resetAmid 1 (.notice aNotice))).oae.taking = none := by decide +kernel

/-! ### Witnesses: the cadence -/

theorem test_witness_TickCountsInEveryBlock :
    ((running 2).ct.runState = .running ∧ (running 2).ct.countdown = some 2) ∧ ((running 1).ct.countdown = some 1 ∧ (1 : Nat) ≤ 1) ∧
      halted.ct.runState ≠ .running ∧ (running 1).mlc.wait = none ∧ State.reset.tp.window = none ∧ State.reset.tp.sending = .nothing ∧
      State.reset.tp.rx = none ∧ (trunk replyingPort).tp.sending ≠ .nothing ∧ (after .tick (running 2)).ct.countdown = some 1 ∧
      (after .tick (running 1)).ct.countdown = some 100 ∧ (after .tick (running 1)).ct.expiriesDue = 1 ∧
      (after .tick State.reset).tp.idleTicks = 1 := by decide +kernel

theorem test_witness_TickCountsInEveryBlock_wait_and_window :
    (linked { State.reset.mlc with wait := some { addr := 1, kind := .first, ticks := 1 } }).mlc.wait = some { addr := 1, kind := .first, ticks := 1 } ∧
      (after .tick (linked { State.reset.mlc with wait := some { addr := 1, kind := .first, ticks := 1 } })).mlc.wait =
        some { addr := 1, kind := .first, ticks := 2 } ∧
      (after .tick (trunk { State.reset.tp with window := some { addr := 3, ticks := 4, own := false } })).tp.window =
        some { addr := 3, ticks := 5, own := false } := by decide +kernel

/-- A cadence expiry is due in RUNNING, with or without a collecting period. -/
def expiring (n : Period) (collecting : Bool) : State :=
  { running 100 with ct := { (running 100).ct with n := n, collectingOpen := collecting, expiriesDue := 1 } }

theorem test_witness_CadenceExpiryAdvancesThePeriod :
    ((expiring 0xFFFF true).ct.runState = .running ∧ 0 < (expiring 0xFFFF true).ct.expiriesDue) ∧ (running 100).ct.expiriesDue = 0 ∧
      halted.ct.runState ≠ .running ∧ (after .cadenceExpiry (expiring 0xFFFF true)).ct.n = 0 ∧
      (after .cadenceExpiry (expiring 0xFFFF true)).oae.closes = [{ period := 0xFFFE, feeds := none }] ∧ (after .cadenceExpiry (expiring 0 false)).oae.closes = [] := by
  decide +kernel

/-- Fields of CONFIGURE-UNIT with one of them just outside its range. -/
def badUnitFields : List UnitFields :=
  [{ unitFields with il := 0 }, { unitFields with il := 11 }, { unitFields with voltA := 89 }, { unitFields with voltA := 501 },
    { unitFields with voltB := 89 }, { unitFields with voltB := 501 }, { unitFields with staleLimit := 16 }, { unitFields with lostLimit := 0 },
    { unitFields with lostLimit := 61 }, { unitFields with restoreCount := 0 }, { unitFields with restoreCount := 61 },
    { unitFields with threshold := 65536 }, { unitFields with forwardMode := 2 }]

theorem test_witness_ConfigureUnitReplacesTheRecord :
    (∀ f ∈ badUnitFields, ¬ ConfigRanges f) ∧ ConfigRanges unitFields ∧ ConfigRanges { unitFields with il := 10, lostLimit := 60, restoreCount := 1 } ∧
      (owning (.configureUnit 1 unitFields) (running 9)).ct.runState = .running ∧ State.reset.ct.runState ≠ .running := by
  unfold ConfigRanges
  decide +kernel

theorem test_configure_unit_answers :
    status (after (.configureUnit 1 { unitFields with il := 11 }) (running 9)) = some .invalidParameter ∧
      status (after (.configureUnit 1 unitFields) (running 9)) = some .incorrectState ∧
      (after (.configureUnit 1 unitFields) State.reset).ct.configured = true ∧
      (after (.configureUnit 1 unitFields) State.reset).ct.config.forwardAll = true := by decide +kernel

/-- CONFIG with the configured flag set. -/
def configured : State := { State.reset with ct := { State.reset.ct with configured := true } }

theorem test_witness_StartBeginsOrResumesTheCadence :
    (owning (.start 1) State.reset).tp.path = .atOwner (.start 1) ∧ (running 5).ct.runState = .running ∧ State.reset.ct.configured = false ∧
      (configured.ct.runState = .config ∧ configured.ct.configured = true) ∧ (halted.ct.runState = .halted ∧ halted.ct.configured = true) ∧
      status (after (.start 1) State.reset) = some .incorrectState ∧ result (after (.start 1) configured) = [0, 0] ∧
      result (after (.start 1) halted) = [0, 5] ∧ (after (.start 1) halted).mlc.syncDue = some 5 := by decide +kernel

theorem test_witness_HaltStopsTheCadence :
    (owning (.halt 1) halted).ct.runState ≠ .running ∧ (owning (.halt 1) (running 5)).ct.runState = .running ∧
      (owning (.halt 1) (running 5)).tp.path = .atOwner (.halt 1) ∧ (running 5).mlc.roundEndDue = false ∧ (running 5).oae.closes = [] ∧
      status (after (.halt 1) halted) = some .incorrectState ∧ result (after (.halt 1) (running 5)) = [0, 0] ∧
      (after .broadcastHalt (running 5)).ct.runState = .halted ∧ after .broadcastHalt halted = halted := by decide +kernel

theorem test_witness_HaltStopsTheCadence_broadcast :
    ((running 5).tp.sending = .nothing ∧ ¬ SomeAtOwner (running 5)) ∧ ¬ SomeAtOwner halted ∧ halted.ct.runState ≠ .running :=
  ⟨⟨rfl, (by rintro ⟨o, h⟩; cases h)⟩, (by rintro ⟨o, h⟩; cases h), by decide⟩

/-- A HALT with a round end, a close and a begun delivery that wait: each has run, and nothing of them is left. -/
def haltAmid : State :=
  { running 5 with
    mlc := { (running 5).mlc with roundEndDue := true, tally := { frames := 1, absentA := 1, absentB := 0 } }
    oae := { (running 5).oae with closes := [{ period := 3, feeds := none }], taking := some { head := 1, stamp := 5, rest := [], entries := [] } } }

theorem test_witness_HaltStopsTheCadence_amid :
    haltAmid.mlc.roundEndDue = true ∧ haltAmid.oae.closes ≠ [] ∧ (after .broadcastHalt haltAmid).fm.a.state = .lost ∧
      (after .broadcastHalt haltAmid).nu.unit.latched.getLsbD 1 = true ∧ (after .broadcastHalt haltAmid).oae.closes = [] ∧
      (after .broadcastHalt haltAmid).oae.taking = none ∧ (after .broadcastHalt haltAmid).ct.runState = .halted ∧
      (after .close (after .roundEnd haltAmid)).oae.closes = [] := by decide +kernel

/-! ### Witnesses: the meter link -/

/-- A SYNC is signalled, with or without a round end that waits. -/
def signalled (n : Period) (ending : Bool) : State := linked { State.reset.mlc with syncDue := some n, roundEndDue := ending }

theorem test_witness_SyncBeginsTheRound :
    ((signalled 0xFFFF false).mlc.syncDue = some 0xFFFF ∧ (signalled 0xFFFF false).mlc.roundEndDue = false) ∧ State.reset.mlc.syncDue = none ∧
      (signalled 0 true).mlc.roundEndDue = true ∧ (after .sync (signalled 0x0102 false)).mlc.lastSent.take 4 = [0x00, 0x01, 0x01, 0x02] ∧
      (after .sync (signalled 0 false)).mlc.phase = .probe ∧
      (after .sync (linked { (signalled 0 false).mlc with heads := [(1, presentHead)] })).mlc.phase = .poll := by decide +kernel

/-- Switch entries of outlet 0 of head `h`. -/
def offEntry (h : Nat) : SwitchEntry := { addr := { head := h, outlet := 0 }, direction := .off, tenant := 1 }

/-- The switch phase with the walk past one entry; head 1 is PRESENT. -/
def switching : State :=
  linked { State.reset.mlc with
    phase := .switch, heads := [(1, presentHead)], walkPos := 1, switchQueue := [offEntry 3] ++ [offEntry 2] ++ offEntry 1 :: [offEntry 4] }

theorem test_witness_SwitchQueueIsServedInOrder :
    (switching.mlc.phase = .switch ∧ switching.mlc.wait = none ∧ switching.mlc.roundEndDue = false ∧
        switching.mlc.switchQueue = [offEntry 3] ++ [offEntry 2] ++ offEntry 1 :: [offEntry 4] ∧ switching.mlc.walkPos = [offEntry 3].length ∧
        (∀ x ∈ [offEntry 2], (switching.head x.addr.head).state ≠ .present) ∧ (switching.head (offEntry 1).addr.head).state = .present) ∧
      State.reset.mlc.phase ≠ .switch ∧
      (after .switch switching).mlc.switchQueue = [offEntry 3, offEntry 2, offEntry 4] ∧
      (after .switch switching).mlc.lastSent.take 4 = [1, 3, 0, 0] := by decide +kernel

theorem test_witness_SwitchQueueIsServedInOrder_requests :
    (∃ x ∈ switching.mlc.switchQueue, x.addr = (offEntry 2).addr ∧ x.direction = (offEntry 2).direction) ∧
      ((∀ x ∈ (List.range 16).map offEntry, ¬ (x.addr = (offEntry 20).addr ∧ x.direction = (offEntry 20).direction)) ∧
        16 ≤ ((List.range 16).map offEntry).length) ∧
      ((∀ x ∈ (List.range 15).map offEntry, ¬ (x.addr = (offEntry 20).addr ∧ x.direction = (offEntry 20).direction)) ∧
        ((List.range 15).map offEntry).length < 16) ∧
      addAnswer ((List.range 16).map offEntry) (offEntry 15) = .merged ∧ addAnswer ((List.range 16).map offEntry) (offEntry 16) = .refused ∧
      addAnswer ((List.range 15).map offEntry) (offEntry 16) = .taken := by decide +kernel

/-- The poll phase at position `pos`, heads 1 and 32 PRESENT. -/
def polling (pos : Nat) (repoll : Option Nat) : State :=
  linked { State.reset.mlc with phase := .poll, heads := [(1, presentHead), (32, presentHead)], pollPos := pos, repollDue := repoll }

/-- The probe phase with the pointer at `k` and every address but 1 and 32 in PRESENT. -/
def probing (k : Nat) : State :=
  linked { State.reset.mlc with phase := .probe, probePointer := k, heads := (List.range' 2 30).map fun a => (a, presentHead) }

theorem test_witness_PollAndProbeOpenAReplyWait_poll :
    ((polling 1 (some 1)).mlc.phase = .poll ∧ (polling 1 (some 1)).mlc.wait = none ∧ (polling 1 (some 1)).mlc.roundEndDue = false ∧
        (polling 1 (some 1)).mlc.repollDue = some 1) ∧
      ((polling 2 none).mlc.repollDue = none ∧ (polling 2 none).mlc.pollPos ≤ 32 ∧ ToPoll (polling 2 none) 32) ∧
      (polling 1 none).mlc.phase ≠ .probe ∧ (after .poll (polling 2 none)).mlc.lastSent.take 2 = [32, 2] ∧
      (after .poll (polling 2 none)).mlDir 29 = true ∧ (after .poll (polling 2 none)).mlDir 30 = false ∧ State.reset.mlDir 0 = false := by
  unfold ToPoll
  decide +kernel

/-- No address below 32 is left to poll past position 2. -/
theorem test_witness_PollAndProbeOpenAReplyWait_lowest : ∀ b, (polling 2 none).mlc.pollPos ≤ b → b < 32 → ¬ ToPoll (polling 2 none) b := by
  have h : ∀ b < 32, 2 ≤ b → ((polling 2 none).head b).state = .absent := by decide +kernel
  exact fun b h1 h2 h3 => h3.1 (h b h2 h1)

theorem test_witness_PollAndProbeOpenAReplyWait_probe :
    ((probing 31).mlc.phase = .probe ∧ (probing 31).mlc.wait = none ∧ (probing 31).mlc.roundEndDue = false ∧
        ((probing 31).head 32).state = .absent ∧ (probing 31).mlc.probePointer < 32 ∧ ∀ b, (probing 31).mlc.probePointer < b → ¬ b < 32) ∧
      ((1 ≤ (probing 32).mlc.probePointer ∧ ∀ b, (probing 32).mlc.probePointer < b → ¬ b ≤ 32) ∧ ((probing 32).head 1).state = .absent) ∧
      (after .probe (probing 31)).mlc.probePointer = 32 ∧ (after .probe (probing 32)).mlc.probePointer = 1 := by
  refine ⟨⟨by decide +kernel, by decide +kernel, by decide +kernel, by decide +kernel, by decide +kernel, ?_⟩, ⟨⟨by decide +kernel, ?_⟩,
    by decide +kernel⟩, by decide +kernel, by decide +kernel⟩
  · exact fun b (h : 31 < b) => by omega
  · exact fun b (h : 32 < b) => by omega

/-- A reply wait of head 1 in the poll phase, or of a probe of head 1. -/
def waiting (kind : PollKind) (ticks : Nat) : State :=
  linked { State.reset.mlc with
    phase := if kind = .probe then .probe else .poll, heads := if kind = .probe then [] else [(1, presentHead)]
    wait := some { addr := 1, kind := kind, ticks := ticks } }

theorem test_witness_ReplyWaitCloseEndsThePollNotAnswered :
    ((waiting .first 2).mlc.wait = some { addr := 1, kind := .first, ticks := 2 } ∧ 2 ≤ 2) ∧
      ((waiting .probe 1).mlc.wait = some { addr := 1, kind := .probe, ticks := 1 } ∧ 1 < 2) ∧ State.reset.mlc.wait = none ∧
      ((after .replyWaitClose (waiting .first 2)).head 1).state = .silent ∧ ((after .replyWaitClose (waiting .first 2)).head 1).silence = 1 ∧
      (after .replyWaitClose (waiting .probe 2)).mlc.phase = .complete ∧
      after .replyWaitClose (waiting .first 1) = waiting .first 1 := by decide +kernel

/-- A reply frame of head `src` with sequence number `seq`, stamp 5, both feeds present, record count `n` and records `body`. -/
def replyHead (src seq n : Byte) : List Byte := [src, seq, 0, 5, 3, n]

/-- The frame with its check value. -/
def sound (src seq n : Byte) (records : List Byte) : List Byte := withCrc8 (replyHead src seq n ++ records)

/-- The characters of that frame. -/
def heads (src seq n : Byte) (records : List Byte) : List Character := sentCharacters (sound src seq n records)

theorem test_witness_ReplyFrameFailsTheFirstCheckThatFails :
    ((waiting .first 0).mlc.wait ≠ none ∧ (waiting .first 0).mlc.roundEndDue = false ∧ State.reset.mlc.wait = none) ∧
      ¬ FrameSound [] false ∧ ¬ FrameSound (sound 1 8 0 []) true ∧ ¬ FrameSound (List.replicate 296 0) false ∧
      (FrameSound (sound 2 8 0 []) false ∧ (2 : Byte).toNat ≠ 1) ∧
      (FrameSound (sound 1 7 0 []) false ∧ (1 : Byte).toNat = 1 ∧ ((waiting .first 0).head 1).lastSeq = some 7) ∧
      (FrameSound (sound 1 8 1 []) false ∧ ((waiting .first 0).head 1).lastSeq ≠ some 8 ∧ ¬ ((1 : Byte).toNat ≤ 48 ∧ 1 = 1 + 6 * (1 : Byte).toNat)) ∧
      (linked { (waiting .first 0).mlc with roundEndDue := true }).mlc.roundEndDue = true ∧
      (bytesOf (heads 2 8 0 []) = sound 2 8 0 [] ∧ anyFramingError (heads 2 8 0 []) = false) ∧
      anyFramingError (broken (sound 1 8 0 [])) = true := by
  unfold FrameSound
  decide +kernel

theorem test_reply_frame_checks :
    (after (replyOf (broken (sound 1 8 0 []))) (waiting .first 0)).mlc.repollDue = some 1 ∧
      ((after (replyOf (broken (sound 1 8 0 []))) (waiting .first 0)).head 1).errorCount = 1 ∧
      ((after (replyOf (heads 2 8 0 [])) (waiting .first 0)).nu.unit.latched.getLsbD 6) = true ∧
      (after (replyOf (heads 1 7 0 [])) (waiting .first 0)).oae.deliveries = [] ∧
      (after (replyOf (heads 1 7 0 [])) (waiting .first 0)).mark 1 = .answered ∧
      ((after .strayFrame State.reset).nu.unit.latched.getLsbD 6) = true := by decide +kernel

theorem test_witness_ReplyFrameAccepted :
    (bytesOf (heads 1 8 1 [0, 1, 0, 0, 1, 0]) =
        1 :: 8 :: 0 :: 5 :: 3 :: 1 :: ([0, 1, 0, 0, 1, 0] ++ [crc8 (replyHead 1 8 1 ++ [0, 1, 0, 0, 1, 0])]) ∧
      anyFramingError (heads 1 8 1 [0, 1, 0, 0, 1, 0]) = false) ∧
    (FrameSound (sound 1 8 1 [0, 1, 0, 0, 1, 0]) false ∧ ((waiting .first 0).head 1).lastSeq ≠ some 8 ∧ (1 : Byte).toNat ≤ 48 ∧
        ([0, 1, 0, 0, 1, 0] ++ [crc8 (replyHead 1 8 1 ++ [0, 1, 0, 0, 1, 0])] : List Byte).length = 1 + 6 * (1 : Byte).toNat) ∧
      (after (replyOf (heads 1 8 1 [0, 1, 0, 0, 1, 0])) (waiting .first 0)).oae.deliveries =
        [{ head := 1, stamp := 5, records := [{ outlet := 0, switchState := .on, counter := 256 }] }] ∧
      ((after (replyOf (heads 1 8 1 [48, 1, 0, 0, 1, 0])) (waiting .probe 0)).tp.copies.map PendingCopy.records) = [[]] ∧
      ((after (replyOf (heads 1 8 0 [])) (waiting .probe 0)).nu.unit.latched.getLsbD 4) = true := by
  unfold FrameSound
  decide +kernel

/-- A round end waits in the poll phase with an empty tally, head 1 not reached and at one miss before the lost limit. -/
def endingRound : State :=
  linked { (polling 1 none).mlc with heads := [(1, { presentHead with silence := 9 })], roundEndDue := true }

theorem test_witness_RoundEndCountsMissesAndJudgesTheTally :
    endingRound.mlc.roundEndDue = true ∧ State.reset.mlc.roundEndDue = false ∧ MissedAtEnd endingRound 1 ∧ ¬ MissedAtEnd endingRound 32 ∧
      ((after .roundEnd endingRound).head 1).state = .lost ∧ (endingRound.head 1).state ≠ .lost ∧
      ((after .roundEnd endingRound).nu.unit.latched.getLsbD 0) = true := by
  unfold MissedAtEnd
  decide +kernel

theorem test_witness_RoundEndCountsMissesAndJudgesTheTally_quiet :
    (∀ a, ¬ MissedAtEnd (linked { State.reset.mlc with roundEndDue := true }) a) ∧
      (after .roundEnd (linked { State.reset.mlc with roundEndDue := true })).fm.a.state = State.reset.fm.a.state ∧
      (after .roundEnd (linked { State.reset.mlc with roundEndDue := true })).fm.b.state = State.reset.fm.b.state :=
  ⟨fun _ h => h.1.elim nofun nofun, by decide +kernel, by decide +kernel⟩

/-- That round end with a frame that reports feed A absent: FM judges the tally and latches FEED_LOST beside HEAD_LOST. -/
theorem test_witness_RoundEndCountsMissesAndJudgesTheTally_feeds :
    (after .roundEnd (linked { endingRound.mlc with tally := { frames := 1, absentA := 1, absentB := 0 } })).fm.a.state = .lost ∧
      (after .roundEnd (linked { endingRound.mlc with tally := { frames := 1, absentA := 1, absentB := 0 } })).nu.unit.latched.getLsbD 0 = true ∧
      (after .roundEnd (linked { endingRound.mlc with tally := { frames := 1, absentA := 1, absentB := 0 } })).nu.unit.latched.getLsbD 1 = true := by
  decide +kernel

/-- After an accepted frame, a repeat or a miss of head 1 the walk is at 2 and no address is left to poll; the probe phase begins. -/
theorem test_walk_moves_past_the_polled_address :
    (waiting .first 0).mlc.phase = .poll ∧
      ((after (replyOf (heads 1 8 0 [])) (waiting .first 0)).mlc.pollPos, (after (replyOf (heads 1 8 0 [])) (waiting .first 0)).mlc.phase) = (2, .probe) ∧
      ((after (replyOf (heads 1 7 0 [])) (waiting .first 0)).mlc.pollPos, (after (replyOf (heads 1 7 0 [])) (waiting .first 0)).mlc.phase) = (2, .probe) ∧
      (after .replyWaitClose (linked { (waiting .first 2).mlc with heads := [(1, presentHead), (32, presentHead)] })).mlc.phase = .poll := by
  decide +kernel

/-- FORGET-HEAD of a head that is not being polled leaves the walk; of the head whose re-poll is due it moves on to 2. -/
theorem test_witness_ForgetHeadClearsTheEntry_walk :
    ((polling 1 none).mlc.phase = .poll ∧ (polling 1 none).mlc.wait = none ∧ (polling 1 none).mlc.repollDue ≠ some 32) ∧
      (after (.forgetHead 1 32) (polling 1 none)).mlc.phase = .poll ∧ (after (.forgetHead 1 32) (polling 1 none)).mlc.pollPos = 1 ∧
      (after (.forgetHead 1 1) (polling 1 (some 1))).mlc.pollPos = 2 ∧ (after (.forgetHead 1 1) switching).mlc.phase = .probe ∧
      (switching.mlc.phase = .switch ∧ switching.mlc.wait = none ∧ switching.mlc.repollDue = none) ∧
      (after (.forgetHead 1 2) (waiting .first 0)).mlc.wait = some { addr := 1, kind := .first, ticks := 0 } := by decide +kernel

theorem test_witness_ForgetHeadClearsTheEntry :
    (∀ h ∈ [0, 33], ¬ (1 ≤ h ∧ h ≤ 32)) ∧ (∀ h ∈ [1, 32], 1 ≤ h ∧ h ≤ 32) ∧
      (owning (.forgetHead 1 1) (waiting .first 0)).tp.path = .atOwner (.forgetHead 1 1) ∧
      (waiting .first 0).mlc.wait = some { addr := 1, kind := .first, ticks := 0 } ∧ (1 ≠ 2) ∧ (polling 1 (some 1)).mlc.wait = none ∧
      (polling 1 (some 1)).mlc.repollDue = some 1 ∧ status (after (.forgetHead 1 33) State.reset) = some .invalidParameter ∧
      result (after (.forgetHead 1 1) (waiting .first 0)) = [1, 0, 0, 1, 0, 0, 3] ∧
      (after (.forgetHead 1 1) (waiting .first 0)).mlc.wait = none := by decide +kernel

/-! ### Witnesses: the Outlet Table -/

/-- Fields of BIND-OUTLET that fail one range condition each. -/
def badBindFields : List BindFields :=
  [{ bindFields with head := 0 }, { bindFields with head := 33 }, { bindFields with outlet := 48 }, { bindFields with feed := 2 },
    { bindFields with current := 0 }, { bindFields with current := 64 }, { bindFields with priority := 8 }, { bindFields with entries := [] },
    { bindFields with priority := 0, entries := [(1, 64), (2, 64), (3, 64), (4, 32), (5, 32)] }, { bindFields with entries := [(0, 256)] },
    { bindFields with entries := [(128, 256)] }, { bindFields with priority := 0, entries := [(1, 128), (1, 128)] },
    { bindFields with priority := 0, entries := [(1, 256), (2, 0)] }, { bindFields with entries := [(1, 255)] },
    { bindFields with entries := [(1, 128), (2, 128)] }]

theorem test_witness_BindOutletBindsAtOnce_ranges :
    (∀ f ∈ badBindFields, ¬ BindRanges f) ∧ BindRanges bindFields ∧
      BindRanges { bindFields with head := 32, outlet := 47, feed := 1, current := 63, priority := 7, entries := [(127, 256)] } ∧
      BindRanges { bindFields with priority := 0, entries := [(1, 253), (2, 1), (3, 1), (4, 1)] } := by
  simp [badBindFields, bindFields, BindRanges, IsOutlet]

theorem test_witness_BindOutletBindsAtOnce_states :
    (∃ e ∈ bindFields.entries, GroupLocked (housing .active true) e.1) ∧ (∀ e ∈ bindFields.entries, ¬ GroupLocked (housing .active) e.1) ∧
      ((wired ownOutlet).outlet (bindFields.head * 48 + bindFields.outlet)).binding ≠ .unbound ∧
      (∃ e ∈ bindFields.entries, (State.reset.tenant e.1).state = .vacant) ∧ (∃ e ∈ bindFields.entries, ((housing .closing).tenant e.1).state = .closing) ∧
      (((housing .active).outlet 48).binding = .unbound ∧ ∀ e ∈ bindFields.entries, ((housing .active).tenant e.1).state = .active) ∧
      (owning (.bindOutlet 1 bindFields) (housing .active)).tp.path = .atOwner (.bindOutlet 1 bindFields) := by
  unfold GroupLocked
  decide +kernel

theorem test_bind_outlet_answers :
    status (after (.bindOutlet 1 bindFields) (housing .active true)) = some .locked ∧
      status (after (.bindOutlet 1 bindFields) State.reset) = some .incorrectState ∧
      result (after (.bindOutlet 1 bindFields) (housing .active)) = [0, 0, 0, 1] ∧
      ((after (.bindOutlet 1 bindFields) (housing .active)).outlet 48).shares = [{ tenant := 1, share := 256, rate := 0 }] := by decide +kernel

/-- Outlet 1.0 shared by two tenants. -/
def sharedOutlet : Outlet :=
  { ownOutlet with priority := 0, shares := [{ tenant := 1, share := 192, rate := 5 }, { tenant := 2, share := 64, rate := 2 }] }

theorem test_witness_AlterOutletChangesRatingAndPriority :
    (¬ (IsOutlet 33 0 ∧ 1 ≤ 1) ∧ ¬ (IsOutlet 1 48 ∧ 1 ≤ 1) ∧ ¬ 1 ≤ 0 ∧ ¬ 64 ≤ 63 ∧ ¬ 8 ≤ 7 ∧
        ¬ (1 = 0 ∨ ((wired sharedOutlet).outlet (1 * 48 + 0)).shares.length ≤ 1)) ∧
      (IsOutlet 1 0 ∧ IsOutlet 32 47 ∧ ((wired ownOutlet).outlet (1 * 48 + 0)).shares.length ≤ 1) ∧
      SomeLocked { wired ownOutlet with tp := (housing .active true).tp } ((wired ownOutlet).outlet (1 * 48 + 0)) ∧
      ¬ SomeLocked (wired ownOutlet) ((wired ownOutlet).outlet (1 * 48 + 0)) ∧ ((wired ownOutlet).outlet (1 * 48 + 0)).binding = .bound ∧
      (State.reset.outlet (1 * 48 + 0)).binding ≠ .bound ∧ status (after (.alterOutlet 1 1 0 64 0) (wired ownOutlet)) = some .invalidParameter ∧
      status (after (.alterOutlet 1 1 0 1 0) State.reset) = some .incorrectState ∧
      result (after (.alterOutlet 1 1 0 63 7) (wired ownOutlet)) = [63, 1] := by
  unfold SomeLocked GroupLocked IsOutlet
  decide +kernel

theorem test_witness_ReleaseAndReadOutlet :
    (¬ IsOutlet 0 0 ∧ ¬ IsOutlet 33 0 ∧ ¬ IsOutlet 1 48 ∧ IsOutlet 1 0 ∧ IsOutlet 32 47) ∧ (State.reset.outlet (1 * 48 + 0)).binding = .unbound ∧
      ((wired { ownOutlet with binding := .releasing }).outlet (1 * 48 + 0)).binding = .releasing ∧
      ¬ SomeLocked (wired ownOutlet) ((wired ownOutlet).outlet (1 * 48 + 0)) ∧
      SomeLocked { wired ownOutlet with tp := (housing .active true).tp } ((wired ownOutlet).outlet (1 * 48 + 0)) ∧
      ((wired ownOutlet).outlet (1 * 48 + 0)).binding = .bound ∧ status (after (.releaseOutlet 1 1 0) (wired ownOutlet)) = some .accepted ∧
      status (after (.releaseOutlet 1 1 0) (wired { ownOutlet with binding := .releasing })) = some .busy ∧
      result (after (.readOutlet 1 1 0) (wired ownOutlet)) =
        [1, 0, 1, 0, 63, 1, 0, 0, 0, 1, 1, 1, 1, 0, 0, 0, 5] ++ List.replicate 18 0 ++ [0, 0, 0, 1, 0, 0, 0, 100, 0, 3, 1, 0, 0, 0, 0] := by
  unfold SomeLocked GroupLocked IsOutlet
  decide +kernel

/-! ### Witnesses: attribution and the close -/

/-- A delivery of head 1 with one record of outlet 0, and its copy. -/
def delivered (forwardAll : Bool) (queued : Nat) : State :=
  let s := wired ownOutlet
  let r : MeterRecord := { outlet := 0, switchState := .on, counter := 200 }
  { s with
    ct := { s.ct with config := { s.ct.config with forwardAll := forwardAll } }
    oae := { s.oae with deliveries := [{ head := 1, stamp := 4, records := [r] }] }
    tp := { s.tp with
      copies := [{ head := 1, stamp := 4, flags := { a := true, b := true }, records := [r] }]
      forwards := List.replicate queued { head := 1, stamp := 3, flags := { a := true, b := true }, entries := [] } } }

theorem test_witness_DeliveryIsTakenWhole :
    ((delivered true 31).oae.closes = [] ∧ (delivered true 31).oae.taking = none ∧ (delivered true 31).oae.deliveries ≠ [] ∧ (delivered true 31).tp.copies ≠ []) ∧
      (delivered false 0).ct.config.forwardAll = false ∧ ((delivered true 31).ct.config.forwardAll = true ∧ (delivered true 31).tp.forwards.length < 32) ∧
      32 ≤ (delivered true 32).tp.forwards.length ∧ { delivered true 0 with tp := State.reset.tp }.tp.copies = [] ∧
      State.reset.oae.deliveries = [] ∧ (after (.deliveryTake none) (delivered true 31)).tp.forwards.length = 32 ∧
      (after (.deliveryTake none) (delivered true 32)).tp.dropCount = 1 ∧ ((after (.deliveryTake none) (delivered false 0)).account 1).accA = 100 ∧
      ((after (.deliveryTake none) (delivered false 0)).outlet 48).lastStamp = 4 := by decide +kernel

/-- A delivery of head 1 with two records of outlet 0, and its copy. -/
def twoRecords : State :=
  let s := delivered true 0
  let r : MeterRecord := { outlet := 0, switchState := .on, counter := 200 }
  { s with
    oae := { s.oae with deliveries := [{ head := 1, stamp := 4, records := [r, { r with outlet := 1 }] }] }
    tp := { s.tp with copies := [{ head := 1, stamp := 4, flags := { a := true, b := true }, records := [r, { r with outlet := 1 }] }] } }

/-- Between the two records of a delivery a release is taken, and the second record is taken after it (R43, R53). -/
theorem test_order_between_two_records :
    let s := after (.deliveryTake (some 1)) twoRecords
    let t := after (.deliveryTake none) (after (.releaseOutlet 1 1 0) s)
    s.oae.taking.map (fun k => k.rest.length) = some 1 ∧ (s.outlet 48).lastCounter = 200 ∧ (s.outlet 49).lastCounter = 0 ∧
      s.tp.copies.length = 1 ∧ status (after (.releaseOutlet 1 1 0) s) = some .accepted ∧
      (t.outlet 48).binding = .releasing ∧ (t.outlet 49).lastCounter = 200 ∧ t.oae.taking = none ∧ t.tp.copies = [] ∧
      t.tp.forwards.map (fun f => f.entries.length) = [2] := by decide +kernel

/-- A delivery being taken is taken to its end by the expiry that closes its period, by HALT and by FORGET-HEAD of its head. -/
theorem test_delivery_in_progress_is_ended_first :
    let s := after (.deliveryTake (some 1)) twoRecords
    let e : State := { s with ct := { s.ct with expiriesDue := 1 } }
    (after .cadenceExpiry e).oae.taking = none ∧ (after .cadenceExpiry e).oae.closes = [{ period := 3, feeds := none }] ∧
      ((after .cadenceExpiry e).outlet 49).lastCounter = 200 ∧ (after (.halt 1) s).oae.taking = none ∧
      ((after (.halt 1) s).outlet 49).lastCounter = 200 ∧ (after (.forgetHead 1 1) s).oae.taking = none ∧
      ((after (.forgetHead 1 1) s).outlet 49).lastCounter = 200 ∧ (after (.forgetHead 1 2) s).oae.taking = s.oae.taking ∧
      e.ct.runState = .running ∧ e.ct.collectingOpen = true := by decide +kernel

/-- The record of outlet 0 of head 1 with a counter. -/
def reading (c : Counter) : MeterRecord := { outlet := 0, switchState := .on, counter := c }

/-- The unit without a collecting period. -/
def idle (o : Outlet) : State := { wired o with ct := { (wired o).ct with collectingOpen := false } }

theorem test_witness_RecordThatAttributesNothing :
    (((wired { ownOutlet with baseline := .noBaseline }).outlet (1 * 48 + (reading 0).outlet)).baseline = .noBaseline ∧
        (idle ownOutlet).ct.collectingOpen = false ∧ (wired ownOutlet).ct.collectingOpen = true ∧
        ((wired { ownOutlet with baseline := .noBaseline }).outlet 48).binding ≠ .unbound ∧ (State.reset.outlet 48).binding = .unbound) ∧
      (ownOutlet.baseline ≠ .noBaseline ∧ ((3 : Period) - ownOutlet.lastStamp).toNat = 0) ∧ ((4 : Period) - ownOutlet.lastStamp).toNat ≠ 0 ∧
      (((259 : Period) - ownOutlet.lastStamp).toNat = 256 ∧ ((2 : Period) - ownOutlet.lastStamp).toNat = 65535) ∧
      (ceiling (wired ownOutlet) ownOutlet 1 = 18112 ∧ ((18213 : Counter) - ownOutlet.lastCounter).toNat = 18113 ∧
        (((258 : Period) - ownOutlet.lastStamp).toNat = 255 ∧
          ceiling (wired ownOutlet) ownOutlet 255 < ((4618789 : Counter) - ownOutlet.lastCounter).toNat)) := by
  unfold ceiling
  decide +kernel

theorem test_witness_PlausibleRecordIsAttributed :
    (ownOutlet.baseline ≠ .noBaseline ∧ (wired ownOutlet).ct.collectingOpen = true ∧ ((4 : Period) - ownOutlet.lastStamp).toNat = 1 ∧
        ((18212 : Counter) - ownOutlet.lastCounter).toNat ≤ ceiling (wired ownOutlet) ownOutlet 1 ∧
        ((258 : Period) - ownOutlet.lastStamp).toNat = 255 ∧
        ((99 : Counter) - ownOutlet.lastCounter).toNat = 4294967295) ∧
      { ownOutlet with binding := .unbound, shares := [] }.binding = .unbound ∧
      (sharedOutlet.binding ≠ .unbound ∧ (sharedOutlet.shares.map ShareEntry.tenant).Nodup) ∧ sharedOutlet.feed = .a ∧
      { sharedOutlet with feed := .b }.feed = .b ∧ ((takeRecord 1 4 (reading 18212) (wired sharedOutlet)).1.account 1).accA = 13584 ∧
      ((takeRecord 1 4 (reading 18212) (wired sharedOutlet)).1.account 2).accA = 4528 ∧
      ((takeRecord 1 4 (reading 150) (wired { sharedOutlet with feed := .b })).1.account 2).accB = 12 ∧
      (takeRecord 1 4 (reading 18212) (wired { ownOutlet with binding := .unbound, shares := [] })).1.oae.unattributed = 18112 := by
  unfold ceiling
  decide +kernel

/-- Three entries after a primary, the shares summing to 256. -/
def threeOthers : List ShareEntry := [{ tenant := 2, share := 1, rate := 0 }, { tenant := 3, share := 127, rate := 0 }, { tenant := 4, share := 127, rate := 0 }]

theorem test_witness_SplitSumsToTheDelta :
    ((({ tenant := 1, share := 1, rate := 0 } : ShareEntry) :: threeOthers).map ShareEntry.share).sum = 256 ∧ threeOthers.length ≤ 3 ∧
      ([({ tenant := 1, share := 256, rate := 0 } : ShareEntry)].map ShareEntry.share).sum = 256 ∧
      splitDelta 1000 ({ tenant := 1, share := 1, rate := 0 } :: threeOthers) = [5, 3, 496, 496] := by decide +kernel

/-- The close of period 3, for which FM has handed both feeds PRESENT. -/
def judgedClose : WaitingClose := { period := 3, feeds := some { a := .present, b := .present } }

/-- A close of period 3 waits, for its round end or judged. -/
def closing (o : Outlet) (ending : Bool) : State :=
  { wired o with
    oae := { (wired o).oae with closes := [if ending then { period := 3, feeds := none } else judgedClose] }
    mlc := { (wired o).mlc with roundEndDue := ending } }

theorem test_witness_CloseRunsItsStepsInOrder :
    (closing ownOutlet false).oae.closes = { period := 3, feeds := some { a := .present, b := .present } } :: [] ∧ State.reset.oae.closes = [] ∧
      (closing ownOutlet true).oae.closes = { period := 3, feeds := none } :: [] ∧ (after .close (closing ownOutlet true)) = closing ownOutlet true ∧
      (after .close (closing ownOutlet false)).oae.closes = [] ∧
      ((after .close (closing ownOutlet false)).tenant 1).lastSettled = some 3 ∧
      ((after .close (closing ownOutlet false)).tenant 1).ring.length = 1 := by decide +kernel

/-- The round of the close loses feed A; an ACCOUNTS reset between FM's judgment and the close makes FM's states PRESENT and leaves those of the close. -/
theorem test_accounts_reset_leaves_the_judged_close :
    let s := { closing ownOutlet true with
      mlc := { (closing ownOutlet true).mlc with tally := { frames := 1, absentA := 1, absentB := 0 } } }
    let t := after (.broadcastResetUnit 2) (after .roundEnd s)
    (after .roundEnd s).oae.closes = [{ period := 3, feeds := some { a := .lost, b := .present } }] ∧ t.fm = State.reset.fm ∧
      t.oae.closes = [{ period := 3, feeds := some { a := .lost, b := .present } }] ∧ (t.judgedClose.map Prod.fst) = some 3 := by decide +kernel

theorem test_witness_SweepTotalsAndZeroing :
    (((wired ownOutlet).outlet 48).baseline ≠ .stale ∧ (wired ownOutlet).ct.config.staleLimit < ((6 : Period) + 1 - ((wired ownOutlet).outlet 48).lastStamp).toNat) ∧
      (linked { State.reset.mlc with heads := [(1, { presentHead with state := .lost })] }).mlc.heads ≠ [] ∧
      ((linked { State.reset.mlc with heads := [(1, { presentHead with state := .lost })] }).head (48 / 48)).state = .lost ∧
      (((5 : Period) + 1 - ((wired ownOutlet).outlet 48).lastStamp).toNat ≤ (wired ownOutlet).ct.config.staleLimit ∧
        ((wired ownOutlet).head (48 / 48)).state ≠ .lost) ∧
      (sharedOutlet.shares.map ShareEntry.tenant).Nodup ∧ (intervalTotal 3 { a := .lost, b := .returning } (wired ownOutlet) 1).incomplete = false ∧
      (intervalTotal 3 { a := .present, b := .present } (wired { ownOutlet with baseline := .stale }) 1).incomplete = true ∧
      ((sweepOutlet 6 48 (wired ownOutlet)).outlet 48).baseline = .stale ∧ sweepOutlet 5 48 (wired ownOutlet) = wired ownOutlet := by
  decide +kernel

/-- Outlet 1.0 RELEASING with its completion owed. -/
def releasingOutlet : Outlet := { ownOutlet with binding := .releasing, completionOwed := some 9 }

theorem test_witness_ReleaseEndsAtTheClose :
    ((wired ownOutlet).outlet 48).binding ≠ .releasing ∧
      (((crowded (wired releasingOutlet)).outlet 48).binding = .releasing ∧ ((crowded (wired releasingOutlet)).outlet 48).completionOwed = some 9 ∧
        32 ≤ (crowded (wired releasingOutlet)).tp.completions.length) ∧
      (wired { releasingOutlet with completionOwed := none }).outlet 48 = { releasingOutlet with completionOwed := none } ∧
      (wired releasingOutlet).tp.completions.length < 32 ∧ (releasingOutlet.shares.map ShareEntry.tenant).Nodup ∧
      releasingOutlet.feed = .a ∧ { releasingOutlet with shedMark := true }.shedMark = true ∧
      ((endRelease 48 (wired releasingOutlet)).outlet 48).binding = .unbound ∧
      (endRelease 48 (wired releasingOutlet)).tp.completions.map Completion.outcome = [.released] := by decide +kernel

/-! ### Witnesses: the settle -/

/-- An Interval Total of tenant 1 of period `c`. -/
def total (c : Period) (energy rate : Nat) : IntervalTotal :=
  { tenant := 1, period := c, energyA := energy, energyB := 0, rateA := rate, rateB := 0, incomplete := false, feedA := .present, feedB := .present }

theorem test_witness_BucketsEnterTheDemandRing :
    ((housing .active).tenant 1).bucket.count + 1 = (contractOf fields).window.bucketLength ∧
      ((housing .active).tenant 1).bucket.count + 1 ≠ (contractOf { fields with bucketLength := 255 }).window.bucketLength ∧
      ((bucketStep true false (contractOf fields) (total 3 7 0) [] (housing .active)).1.tenant 1).ring =
        [{ energyA := 7, energyB := 0, incomplete := false, endPeriod := 3 }] ∧
      ((bucketStep true false (contractOf { fields with bucketLength := 255 }) (total 3 7 0) [] (housing .active)).1.tenant 1).bucket.count = 1 := by
  decide +kernel

/-- A ring entry. -/
def ringEntry (e : Nat) : RingEntry := { energyA := e, energyB := 0, incomplete := false, endPeriod := 0 }

theorem test_witness_BucketsEnterTheDemandRing_ring :
    (∀ w ∈ [(contractOf fields).window, { (contractOf fields).window with mode := .block }], 1 ≤ w.buckets ∧ [ringEntry 1].length ≤ w.buckets ∧
        (w.mode = .block → [ringEntry 1].length < w.buckets) ∧ [ringEntry 1].length + 1 = w.buckets) ∧
      [ringEntry 1, ringEntry 2].length = (contractOf fields).window.buckets ∧ ([] : List RingEntry).length + 1 < (contractOf fields).window.buckets ∧
      placeEntry (contractOf fields).window [ringEntry 1, ringEntry 2] (ringEntry 3) =
        ([ringEntry 2, ringEntry 3], some [ringEntry 2, ringEntry 3]) ∧
      placeEntry { (contractOf fields).window with mode := .block } [ringEntry 1] (ringEntry 2) = ([], some [ringEntry 1, ringEntry 2]) := by
  decide +kernel

theorem test_witness_DemandIsTheMeanOfTheWindow :
    (contractOf fields).window.cls = .pooled ∧ (contractOf { fields with cls := 1 }).window.cls = .perFeed ∧
      computeDemand (contractOf fields).window 1 3 [ringEntry 3, ringEntry 4] = { cls := .pooled, value1 := 3, value2 := 0, period := 3 } ∧
      updatePeak (some { watts := 3, period := 1 }) { cls := .pooled, value1 := 3, value2 := 0, period := 3 } = { watts := 3, period := 1 } := by
  decide +kernel

theorem test_witness_BurstCeilingAndExit :
    (contractOf fields).window.cls = .pooled ∧ (contractOf { fields with cls := 1, capacity2 := 9 }).window.cls = .perFeed ∧ 100 ≤ 100 ∧
      burstCeiling 100 7 = 7 ∧ feedLimits (contractOf { fields with cls := 1, capacity2 := 9 }) (.covers .a) = [{ scope := .feedB, limit := 10009 }] := by
  decide +kernel

/-- An evaluation in a band. -/
def evaluation (b : Band) : Evaluation := { band := b, peak := 5, feedsOver := { a := true, b := false } }

/-- A machine with an open breach. -/
def breached (st : MachineState) (n : Nat) : ExceedanceMachine :=
  { state := st, count := n, breach := some { start := 1, peak := 4, feeds := { a := false, b := true }, shed := false } }

theorem test_witness_ExceedanceMachinesMove :
    (ExceedanceMachine.initial.state = .clear ∧ (evaluation .between).band ≠ .above ∧ (evaluation .above).band = .above) ∧
      ({ ExceedanceMachine.initial with state := .pending, count := 2 }.state = .pending ∧ 3 ≤ 2 + 1 ∧ 2 + 1 < 4) ∧
      ((breached .breach 0).breach ≠ none ∧ (breached .easing 1).state = .easing ∧ (evaluation .atExit).band = .atExit ∧ 1 + 1 < 3 ∧ 2 ≤ 1 + 1) ∧
      (evalMachine 1 1 9 true (evaluation .above) ExceedanceMachine.initial).machine.state = .breach ∧
      (evalMachine 2 1 9 true (evaluation .above) ExceedanceMachine.initial).machine.state = .pending ∧
      (evalMachine 1 2 9 true (evaluation .atExit) (breached .breach 0)).machine.state = .easing ∧
      (evalMachine 1 2 9 true (evaluation .between) (breached .easing 1)).move = some .back ∧
      (evalMachine 1 2 9 true (evaluation .atExit) (breached .easing 1)).move = some .clear := by decide +kernel

/-- The record of tenant 1 with an allowance tail. -/
def tailed (n : Nat) : Tenant := { (housing .active).tenant 1 with allowanceTail := n, coveredFeed := if n = 0 then none else some .a }

theorem test_witness_FailoverAllowanceFollowsTheFeeds :
    (contractOf fields).window.cls = .pooled ∧ (contractOf { fields with cls := 1 }).window.cls = .perFeed ∧
      (FeedState.lost ≠ .present ∧ FeedState.returning ≠ .present) ∧ (0 < (tailed 1).allowanceTail ∧ (tailed 1).coveredFeed = some .a) ∧
      (tailed 0).allowanceTail = 0 ∧
      allowanceStep (contractOf { fields with cls := 1 }).window (tailed 1) .present .present =
        { coveredFeed := none, tail := 0, held := true, holds := .covers .a } ∧
      allowanceStep (contractOf { fields with cls := 1 }).window (tailed 0) .lost .returning =
        { coveredFeed := none, tail := 0, held := true, holds := .both } := by decide +kernel

theorem test_witness_FeedStatesFollowTheVerdicts :
    (3 < 2 * 2 ∧ 0 < 3) ∧ (3 < 2 * (3 - 1) ∧ 1 ≤ 3) ∧ (2 ≤ 4 ∧ ¬ 4 < 2 * 2 ∧ ¬ 4 < 2 * (4 - 2)) ∧ 5 ≤ 4 + 1 ∧ 3 + 1 < 5 ∧
      State.reset.fm.a.state = .present ∧ State.reset.fm.b.state = .present ∧
      (judgeTally { frames := 1, absentA := 1, absentB := 0 } State.reset).fm.a.state = .lost ∧
      (judgeTally { frames := 1, absentA := 0, absentB := 1 } State.reset).fm.b.state = .lost ∧
      (judgeTally { frames := 1, absentA := 0, absentB := 0 } { State.reset with fm := { a := { state := .returning, count := 4 }, b := { state := .returning, count := 4 } } }).fm =
        { a := { state := .present, count := 0 }, b := { state := .present, count := 0 } } := by decide +kernel

/-- Two judged feeds. -/
def judged : List Judged := [{ scope := .feedA, value := 11, bound := 10, exit := 9 }, { scope := .feedB, value := 10, bound := 10, exit := 10 }]

theorem test_witness_EvaluationIsClassifiedAndHandedOn :
    judged ≠ [] ∧ classify judged = some { band := .above, peak := 11, feedsOver := { a := true, b := false } } ∧
      ∃ r : Tenant, r.breachLog = ((housing .active).tenant 1).breachLog ∧
        r = { (housing .active).tenant 1 with breachLog := r.breachLog, burst := (enterBreach 3 (evaluation .above)).machine } ∧
        evalMachine 1 1 3 true (evaluation .above) ((housing .active).tenant 1).burst = enterBreach 3 (evaluation .above) :=
  ⟨by decide, by decide +kernel,
    { (housing .active).tenant 1 with burst := (enterBreach 3 (evaluation .above)).machine }, by decide +kernel, by decide +kernel, by decide +kernel⟩

theorem test_witness_SettleReachesItsTenantAlone :
    (State.reset.tenant (total 3 0 0).tenant).state = .vacant ∧ 2 ≠ (total 3 0 0).tenant ∧ settle State.reset (total 3 9 9) = State.reset := by
  decide +kernel

theorem test_witness_SettleAddsToTheLifetimeEnergies :
    (((housing .active).tenant 1).state ≠ .vacant ∧ ((housing .active).tenant 1).contract = some (contractOf fields) ∧
        ((settle (housing .active) (total 3 9 9)).tenant 1).state ≠ .vacant) ∧
      (((housing .closing).tenant 1).state ≠ .vacant ∧ ((settle (housing .closing) (total 3 9 9)).tenant 1).state = .vacant) ∧
      ((settle (housing .active) (total 3 9 9)).tenant 1).lifetimeA = 9 ∧ (settle (housing .closing) (total 3 9 9)).tl.count = 0 := by
  decide +kernel

/-- Tenant 1 with a pending contract. -/
def pendingTenant : State :=
  let s := housing .active
  s.setTenant 1 { s.tenant 1 with pendingLimits := some { (contractOf fields).limits with mask := 0x0001 } }

theorem test_witness_SettleRunsItsStepsInOrder :
    ((pendingTenant.tenant 1).state ≠ .vacant ∧ (pendingTenant.tenant 1).state = .active ∧ ((housing .held).tenant 1).state ≠ .active) ∧
      ((pendingTenant.tenant 1).contract = some (contractOf fields) ∧
        (pendingTenant.tenant 1).pendingLimits = some { (contractOf fields).limits with mask := 0x0001 }) ∧
      ((housing .active).tenant 1).pendingLimits = none ∧
      ((settle pendingTenant (total 3 9 9)).causes 1).mask = 0x0001 ∧ ((settle pendingTenant (total 3 9 9)).tenant 1).pendingLimits = none ∧
      ((settle (housing .active) (total 3 9 15001)).tenant 1).burst.state = .breach ∧
      ((settle (housing .active) (total 3 9 15001)).esc 1).stage = .armed ∧
      ((settle (housing .active) (total 3 9 15001)).esc 1).countdown = some 4 ∧
      ((settle (housing .held) (total 3 9 15001)).tenant 1).burst.state = .clear ∧
      ((settle (housing .active) (total 3 281474976710655 0)).causes 1).latched.getLsbD 4 = true := by decide +kernel

/-- The contract fields of the settle above, as its premise writes them. -/
theorem test_witness_SettleRunsItsStepsInOrder_contract :
    ((housing .active).tenant 1).contract.map
        (fun c => { c with limits := ((housing .active).tenant 1).pendingLimits.getD c.limits }) = some (contractOf fields) := by
  decide +kernel

/-! ### Witnesses: the tenant orders -/

/-- Fields of SET-CONTRACT that fail one range condition each. -/
def badFields : List ContractFields :=
  [{ fields with cls := 2 }, { fields with capacity1 := 0 }, { fields with capacity1 := 1048576 }, { fields with capacity2 := 1 },
    { fields with cls := 1 }, { fields with cls := 1, capacity2 := 1048576 }, { fields with burstPercent := 99 }, { fields with burstPercent := 251 },
    { fields with hysteresis := 256 }, { fields with demandGrace := 16 }, { fields with burstGrace := 16 }, { fields with easeCount := 0 },
    { fields with easeCount := 16 }, { fields with bucketLength := 0 }, { fields with bucketLength := 256 }, { fields with buckets := 0 },
    { fields with buckets := 17 }, { fields with windowMode := 2 }, { fields with action := 3 }, { fields with delayCode := 8 },
    { fields with source := 2 }, { fields with summary := 2 }, { fields with mask := 0x0800 }]

theorem test_witness_SetContractByTheTenantsState_ranges :
    (∀ f ∈ badFields, ¬ ContractRanges 1 f) ∧ ¬ ContractRanges 0 fields ∧ ¬ ContractRanges 128 fields ∧ ContractRanges 1 fields ∧
      ContractRanges 127 { fields with cls := 1, capacity1 := 1048575, capacity2 := 1, burstPercent := 100, easeCount := 15, buckets := 16 } := by
  simp [badFields, fields, ContractRanges, IsTenant]

theorem test_witness_SetContractByTheTenantsState_states :
    (GroupLocked (housing .active true) 1 ∧ ¬ GroupLocked (housing .active) 1 ∧ ¬ GroupLocked State.reset 127) ∧
      ((housing .closing).tenant 1).state = .closing ∧ ((housing .active).tenant 1).state = .active ∧
      ((housing .active).tenant 1).contract.map Contract.window = some (contractFrom fields).window ∧
      ((housing .active).tenant 1).contract.map Contract.window ≠ some (contractFrom { fields with buckets := 3 }).window ∧
      (State.reset.tenant 1).state = .vacant ∧ ((housing .held).tenant 1).state = .held ∧
      (owning (.setContract 1 1 fields) (housing .held)).tp.path = .atOwner (.setContract 1 1 fields) := by
  unfold GroupLocked
  decide +kernel

theorem test_set_contract_answers :
    status (after (.setContract 1 1 fields) (housing .closing)) = some .busy ∧
      status (after (.setContract 1 1 { fields with buckets := 3 }) (housing .active)) = some .incorrectState ∧
      result (after (.setContract 1 1 fields) (housing .active)) = [1] ∧ result (after (.setContract 1 1 fields) State.reset) = [0] ∧
      (after (.setContract 1 1 fields) State.reset).tl.count = 1 ∧
      ((after (.setContract 1 1 { fields with buckets := 3 }) (housing .held)).tenant 1).contract.map (fun k => k.window.buckets) = some 3 := by
  decide +kernel

theorem test_witness_HoldAndResumeTenant :
    (¬ IsTenant 0 ∧ ¬ IsTenant 128 ∧ IsTenant 1 ∧ IsTenant 127) ∧ GroupLocked (housing .active true) 1 ∧ ¬ GroupLocked (housing .active) 1 ∧
      ((housing .held).tenant 1).state ≠ .active ∧ ((housing .active).tenant 1).state = .active ∧ ((housing .active).tenant 1).state ≠ .held ∧
      ((housing .held).tenant 1).state = .held ∧ status (after (.holdTenant 1 128) (housing .active)) = some .invalidParameter ∧
      ((after (.holdTenant 1 1) (housing .active)).tenant 1).state = .held ∧
      ((after (.resumeTenant 1 1) (housing .held)).tenant 1).state = .active ∧
      status (after (.resumeTenant 1 1) (housing .active)) = some .incorrectState := by
  unfold IsTenant GroupLocked
  decide +kernel

theorem test_witness_LongOrdersOfTheLedger_statement :
    (¬ (IsTenant 1 ∧ 2 ≤ 1) ∧ ¬ (IsTenant 128 ∧ 0 ≤ 1) ∧ (IsTenant 127 ∧ 1 ≤ 1)) ∧ GroupLocked (housing .active true) 1 ∧
      ¬ GroupLocked (housing .active) 1 ∧ (State.reset.tenant 1).state = .vacant ∧
      (((housing .held).tenant 1).state = .held ∧ ((housing .held).tenant 1).slot = .empty) ∧
      ((staged .active (.closeTenant 4) Escalation.initial).tenant 1).slot ≠ .empty ∧
      status (after (.statement 1 1 0) (housing .active true)) = some .accepted ∧
      status (after (.statement 1 1 1) (housing .active true)) = some .locked ∧
      status (after (.statement 1 1 1) (staged .active (.closeTenant 4) Escalation.initial)) = some .busy := by
  unfold IsTenant GroupLocked
  decide +kernel

theorem test_witness_LongOrdersOfTheLedger_close :
    (∃ p ∈ (wired ownOutlet).ot.outlets, p.2.binding ≠ .unbound ∧ ∃ e ∈ p.2.shares, e.tenant = 1) ∧
      (∀ p ∈ (housing .active).ot.outlets, p.2.binding ≠ .unbound → ∀ e ∈ p.2.shares, e.tenant ≠ 1) ∧
      ((housing .active).tenant 1).slot = .empty ∧ ((staged .active (.statement 4 false) Escalation.initial).tenant 1).slot ≠ .empty ∧
      status (after (.closeTenant 1 1) (wired ownOutlet)) = some .incorrectState ∧
      status (after (.closeTenant 1 1) (housing .active)) = some .accepted ∧
      ((after (.closeTenant 1 1) (housing .active)).tenant 1).state = .closing := by decide +kernel

/-- A Summary Queue of 32 records. -/
def fullSummaries (s : State) : State :=
  { s with
    tp := { s.tp with
      summaries := List.replicate 32
        { tenant := 1, period := 3, energyA := 0, energyB := 0, rateA := 0, rateB := 0, demand := none, burstState := .clear
          demandState := .clear, stage := .idle, incomplete := false } } }

theorem test_witness_LongOrdersOfTheLedger_summary :
    ((contractOf fields).limits.summary = true ∧ (housing .active).tp.summaries.length < 32) ∧
      (contractOf { fields with summary := 0 }).limits.summary = false ∧ 32 ≤ (fullSummaries (housing .active)).tp.summaries.length ∧
      (summaryStep (contractOf fields) (total 3 7 16777216) (housing .active)).tp.summaries.map Summary.rateA = [16777215] ∧
      (summaryStep (contractOf fields) (total 3 7 1) (fullSummaries (housing .active))).nu.unit.latched.getLsbD 9 = true := by decide +kernel

theorem test_witness_LongOrdersOfTheLedger_slot :
    (((housing .active).tenant 1).slot = .empty ∧ ((housing .active).tenant 1).state ≠ .closing ∧ ((housing .closing).tenant 1).state = .closing) ∧
      ((staged .active (.statement 4 true) Escalation.initial).tp.completions.length < 32 ∧
        ((staged .active (.statement 4 true) Escalation.initial).tenant 1).contract = some (contractOf fields)) ∧
      ((staged .closing (.closeTenant 4) Escalation.initial).tenant 1).slot = .closeTenant 4 ∧
      ((staged .active (.restoreOutlets 4) Escalation.initial).tenant 1).slot = .restoreOutlets 4 ∧
      ((staged .active (.owed .restoreOutlets 4 .abandoned none) Escalation.initial).tenant 1).slot = .owed .restoreOutlets 4 .abandoned none ∧
      32 ≤ (crowded (staged .active (.statement 4 true) Escalation.initial)).tp.completions.length ∧
      (slotStep 1 3 (staged .active (.statement 4 true) Escalation.initial)).tp.completions.map Completion.outcome = [.stated] ∧
      (slotStep 1 3 (staged .closing (.closeTenant 4) Escalation.initial)).tp.completions.map Completion.outcome = [.closed] ∧
      ((slotStep 1 3 (staged .closing (.closeTenant 4) Escalation.initial)).tenant 1).state = .vacant ∧
      (slotStep 1 3 (staged .active (.owed .statement 4 .abandoned none) Escalation.initial)).tp.completions.map Completion.body = [.tenant 1] := by
  decide +kernel

/-- The stage of a restore of outlet 1.0 at its beginning. -/
def restoringStage : Escalation :=
  { Escalation.initial with
    stage := .restoring, shedOrder := [{ head := 1, outlet := 0 }], cursor := some { head := 1, outlet := 0 }
    tallies := some { confirmed := 0, alreadyOn := 0, atLimit := 0 } }

theorem test_witness_ResetTenantEmptiesTheWindow :
    (¬ IsTenant 0 ∧ IsTenant 1) ∧ ((housing .active).tenant 1).state ≠ .vacant ∧ (State.reset.tenant 1).state = .vacant ∧
      ((staged .closing (.closeTenant 4) Escalation.initial).tenant 1).slot = .closeTenant 4 ∧
      ((staged .active (.statement 4 true) Escalation.initial).tenant 1).slot = .statement 4 true ∧
      ((staged .active (.owed .statement 4 .abandoned none) Escalation.initial).tenant 1).slot = .owed .statement 4 .abandoned none ∧
      (((staged .active (.restoreOutlets 4) restoringStage).tenant 1).slot = .restoreOutlets 4 ∧
        ((staged .active (.restoreOutlets 4) restoringStage).esc 1).stage = .restoring) ∧
      32 ≤ (crowded (housing .active)).tp.completions.length ∧ (housing .active).tp.completions.length < 32 ∧
      (after (.resetTenant 1 1) (staged .active (.statement 4 true) Escalation.initial)).tp.completions =
        [{ code := 0x44, tag := 4, outcome := .abandoned, body := .tenant 1 }] ∧
      ((after (.resetTenant 1 1) (crowded (staged .active (.statement 4 true) Escalation.initial))).tenant 1).slot =
        .owed .statement 4 .abandoned none ∧
      ((after (.resetTenant 1 1) (staged .active (.restoreOutlets 4) restoringStage)).esc 1).stage = .idle := by
  unfold IsTenant
  decide +kernel

/-! ### Witnesses: escalation -/

theorem test_witness_RestoreOutletsBeginsARestore :
    (¬ IsTenant 128 ∧ IsTenant 127) ∧ ((staged .active .empty { Escalation.initial with stage := .armed }).esc 1).stage = .armed ∧
      ((staged .active .empty { Escalation.initial with stage := .shedding }).esc 1).stage = .shedding ∧
      ((staged .active (.statement 4 false) restoringStage).tenant 1).slot ≠ .empty ∧ ((housing .active).esc 1).shedOrder = [] ∧
      ((staged .held .empty { restoringStage with stage := .shedHold }).esc 1).shedOrder ≠ [] ∧
      ((staged .held .empty { restoringStage with stage := .shedHold }).tenant 1).slot = .empty ∧
      status (after (.restoreOutlets 1 1) (housing .active)) = some .done ∧
      status (after (.restoreOutlets 1 1) (staged .active .empty { Escalation.initial with stage := .armed })) = some .incorrectState ∧
      status (after (.restoreOutlets 1 1) (staged .active (.statement 4 false) restoringStage)) = some .busy ∧
      ((after (.restoreOutlets 1 1) (staged .held .empty { restoringStage with stage := .shedHold })).esc 1).stage = .restoring := by
  unfold IsTenant
  decide +kernel

theorem test_witness_ShedListIsInShedOrder :
    candidate 1 (wired ownOutlet) = some 48 ∧ candidate 1 (wired { ownOutlet with switchState := .off }) = none ∧
      candidate 1 (wired { ownOutlet with priority := 0 }) = none := by decide +kernel

/-- Tenant 1 in SHEDDING, its outlet 1.0 as given, awaiting it at an age or not. -/
def shedding (o : Outlet) (age : Option Nat) : State :=
  (wired o).setEsc 1
    { Escalation.initial with
      stage := .shedding, shedOrder := if o.shedMark then [{ head := 1, outlet := 0 }] else []
      awaiting := age.map fun n => { addr := { head := 1, outlet := 0 }, direction := .off, age := n } }

/-- Outlet 1.0 with its shed mark. -/
def markedOutlet : Outlet := { ownOutlet with shedMark := true }

/-- What TL hands for the pooled feed. -/
def pooledFeed (value : Nat) : List HandedFeed := [{ scope := .pooled, value := value, limit := 10, exit := 9 }]

theorem test_witness_SheddingStepTakesTheFirstCase :
    Relieved 1 (pooledFeed 9) (shedding ownOutlet none) ∧ ¬ Relieved 1 (pooledFeed 10) (shedding ownOutlet none) ∧ ¬ Relieved 1 [] (shedding ownOutlet none) ∧
      (((shedding markedOutlet (some 1)).esc 1).awaiting = some { addr := { head := 1, outlet := 0 }, direction := .off, age := 1 } ∧
        ((shedding markedOutlet (some 1)).outlet (1 * 48 + 0)).shedMark = true ∧
        ((shedding markedOutlet (some 1)).outlet (1 * 48 + 0)).switchState ≠ .off ∧ 1 + 1 < 3 ∧ 3 ≤ 2 + 1) ∧
      ((shedding ownOutlet (some 0)).outlet (1 * 48 + 0)).shedMark = false ∧
      ((shedding { markedOutlet with switchState := .off } (some 0)).outlet (1 * 48 + 0)).switchState = .off ∧
      ((shedding ownOutlet none).esc 1).awaiting = none ∧ pooledFeed 10 ≠ [] := by
  unfold Relieved
  decide +kernel

/-- Feed A is offending for a tenant with a breach on feed A, feed B is not. -/
theorem test_witness_SheddingStepTakesTheFirstCase_relief :
    let r := { (housing .active).tenant 1 with
      burst := { breached .breach 0 with breach := some { start := 1, peak := 4, feeds := { a := true, b := false }, shed := false } } }
    let h : List HandedFeed := [{ scope := .feedA, value := 1, limit := 10, exit := 9 }, { scope := .feedB, value := 20, limit := 10, exit := 9 }]
    reliefFeeds r h = [{ scope := .feedA, value := 1, limit := 10, exit := 9 }] ∧ reliefFeeds ((housing .active).tenant 1) h = h ∧
      relieved r h = true ∧ relieved ((housing .active).tenant 1) h = false := by decide +kernel

theorem test_witness_SheddingStepTakesTheFirstCase_candidates :
    candidate 1 (shedding ownOutlet none) = some 48 ∧ candidate 1 (shedding markedOutlet none) = none ∧
      addAnswer ((List.range 16).map offEntry) { addr := { head := 40, outlet := 0 }, direction := .off, tenant := 1 } = .refused ∧
      addAnswer (shedding ownOutlet none).mlc.switchQueue { addr := { head := 1, outlet := 0 }, direction := .off, tenant := 1 } ≠ .refused ∧
      ((sheddingStep 1 (pooledFeed 9) (shedding ownOutlet none)).esc 1).stage = .shedHold ∧
      ((sheddingStep 1 (pooledFeed 10) (shedding ownOutlet none)).outlet 48).shedMark = true ∧
      ((sheddingStep 1 (pooledFeed 10) (shedding markedOutlet (some 2))).esc 1).failed = [{ head := 1, outlet := 0 }] := by decide +kernel

/-- Tenant 1 ARMED with a countdown and its BURST machine in a state. -/
def armed (n : Nat) (m : MachineState) : State :=
  let s := (wired ownOutlet).setEsc 1 { Escalation.initial with stage := .armed, countdown := some n }
  s.setTenant 1 { s.tenant 1 with burst := { ExceedanceMachine.initial with state := m } }

/-- Tenant 1 RESTORING, its outlet 1.0 as given, awaiting it at an age or not. -/
def restoring (o : Outlet) (age : Option Nat) : State :=
  let s := (wired o).setEsc 1
    { restoringStage with
      shedOrder := if o.shedMark then [{ head := 1, outlet := 0 }] else []
      awaiting := age.map fun n => { addr := { head := 1, outlet := 0 }, direction := .on, age := n } }
  s.setTenant 1 { s.tenant 1 with slot := .restoreOutlets 4 }

/-- A close waits whose round has ended and been judged, so that a settle can be taken. -/
def settling (s : State) : State := { s with oae := { s.oae with closes := [judgedClose] } }

/-- The same with a rate sum of 20,000 W for tenant 1, above its burst ceiling. -/
def loaded (s : State) : State := settling (s.setAccount 1 { Account.initial with rateA := 20000 })

/-- What TL hands for tenant 1 at that settle. -/
def loadedFeed : List HandedFeed := [{ scope := .pooled, value := 20000, limit := 10000, exit := 9609 }]

/-- What that settle comes to where ES begins its stage step. -/
def entryOf (s : State) : StageEntry := ((closeReaches 1 s).getD { state := s, handed := [] })

theorem test_witness_EscalationStepsOfTheTable_settling :
    Settling (loaded (armed 1 .clear)) ∧ ¬ Settling (armed 1 .clear) ∧ ¬ Settling (settling halted) := by
  refine ⟨⟨rfl, 3, _, [], rfl⟩, ?_, ?_⟩
  · rintro ⟨-, c, f, rest, h⟩; cases h
  · rintro ⟨h, -⟩; cases h

/-- The Interval Total of tenant 1 in the close of period 3. -/
def totalOf (s : State) : IntervalTotal := intervalTotal 3 { a := .present, b := .present } (sweep 3 { s with oae := { s.oae with closes := [] } }) 1

/-- Tables in canonical form, a listed and an unlisted outlet, a tenant that is not VACANT and one that is. -/
theorem test_witness_CloseRunsItsStepsInOrder_tables :
    (tableWf Outlet.initial (wired ownOutlet).ot.outlets ∧ tableWf Tenant.initial (wired ownOutlet).tl.tenants) ∧
      (48 ∈ (wired ownOutlet).ot.outlets.map Prod.fst ∧ 49 ∉ (wired ownOutlet).ot.outlets.map Prod.fst) ∧
      (wired ownOutlet).liveTenants = [1] ∧ ((wired ownOutlet).tenant 2).state = .vacant := by decide +kernel

theorem test_witness_StageReached (s : State)
    (hs : s = loaded (armed 1 .clear) ∨ s = loaded (shedding markedOutlet (some 2)) ∨
      s = loaded (restoring { markedOutlet with switchState := .off } (some 2))) :
    StageReached 1 s (contractOf fields) (totalOf s) [] loadedFeed (entryOf s).state := by
  rcases hs with rfl | rfl | rfl <;>
    exact ⟨rfl, 3, _, [], _, _, _, _, [], _, _, rfl, rfl, rfl, by decide +kernel, by simp, rfl, by decide +kernel, by decide +kernel,
      rfl, rfl, rfl, fun _ => ⟨by decide +kernel, _, _, rfl, rfl, by decide +kernel⟩, fun h => absurd (by decide +kernel) h⟩

/-- A transition of a machine. -/
def entry (m : MachineKind) : Transition := { machine := m, move := .entry }

theorem test_witness_EscalationStepsOfTheTable_triggers :
    (Trigger (contractOf fields).limits (entry .burst) ∧ ¬ Trigger (contractOf { fields with source := 0 }).limits (entry .burst) ∧
        Trigger (contractOf { fields with source := 0 }).limits (entry .demand)) ∧
      ((contractOf { fields with action := 0 }).limits.action = .noticeOnly ∧ (contractOf fields).limits.action = .delayedShed ∧
        (contractOf { fields with action := 2 }).limits.action = .immediateShed) ∧
      ((housing .active).esc 1).stage = .idle ∧ ((armed 4 .breach).esc 1).stage ≠ .idle ∧
      ((takeTransition (contractOf { fields with delayCode := 7 }).limits 1 (housing .active) (entry .burst)).esc 1).countdown = some 512 ∧
      ((esActive (contractOf fields).limits 1 [entry .burst] (pooledFeed 10) (housing .active)).esc 1).countdown = some 4 ∧
      ((esActive (contractOf fields).limits 1 [] (pooledFeed 10) (armed 4 .breach)).esc 1).countdown = some 3 := by
  unfold Trigger
  decide +kernel

theorem test_witness_EscalationStepsOfTheTable_hold_and_restore :
    (BothClear 1 (housing .active) ∧ ¬ BothClear 1 (armed 2 .breach) ∧ 2 ≤ 2) ∧ Over 1 (pooledFeed 11) (housing .active) ∧
      ¬ Over 1 (pooledFeed 10) (housing .active) ∧ ((housing .active).esc 1).shedOrder = [] ∧
      ((staged .active .empty { Escalation.initial with stage := .shedHold, shedOrder := [{ head := 1, outlet := 0 }] }).esc 1).shedOrder ≠ [] ∧
      ((holdStep 1 (pooledFeed 11) (staged .active .empty { Escalation.initial with stage := .shedHold })).esc 1).stage = .idle ∧
      ((restoring ownOutlet (some 0)).outlet 48).shedMark = false ∧ ((restoring markedOutlet (some 0)).outlet 48).switchState = .on ∧
      ((restoringStep 1 (restoring { markedOutlet with switchState := .off } (some 0))).esc 1).awaiting.map Awaiting.age = some 1 ∧
      (restoringStep 1 (restoring markedOutlet (some 0))).tp.completions.map Completion.body =
        [.restore 1 { confirmed := 1, alreadyOn := 0, atLimit := 0 }] := by
  unfold BothClear Over
  decide +kernel

/-- A relapse needs the DEMAND machine in BREACH. -/
theorem test_witness_EscalationStepsOfTheTable_relapse :
    let s := staged .active .empty { Escalation.initial with stage := .shedHold }
    let t := s.setTenant 1 { s.tenant 1 with demand := breached .breach 0 }
    (t.tenant 1).demand.state = .breach ∧ Over 1 (pooledFeed 11) t ∧ (s.tenant 1).demand.state ≠ .breach ∧
      ((holdStep 1 (pooledFeed 11) t).causes 1).latched.getLsbD 6 = true := by
  unfold Over
  decide +kernel

theorem test_witness_EscalationStepsOfTheTable_arm_and_fail :
    ((entryOf (loaded (armed 1 .clear))).handed = loadedFeed ∧ ((entryOf (loaded (armed 1 .clear))).state.tenant 1).state = .active ∧
        armExpires 1 (entryOf (loaded (armed 1 .clear))).state = true ∧ armExpires 1 (entryOf (settling (armed 1 .clear))).state = false) ∧
      shedFails 1 loadedFeed (entryOf (loaded (shedding markedOutlet (some 2)))).state = true ∧
      (after (.armExpiry 1 loadedFeed) (loaded (armed 1 .clear))).mlc.switchQueue = [offEntry 1] ∧
      after (.armExpiry 1 loadedFeed) (loaded (armed 1 .clear)) = after .close (loaded (armed 1 .clear)) ∧
      after (.armExpiry 1 loadedFeed) (armed 1 .clear) = armed 1 .clear ∧
      after (.armExpiry 1 loadedFeed) (loaded (armed 2 .clear)) = loaded (armed 2 .clear) ∧
      ((after (.shedFailed 1 loadedFeed) (loaded (shedding markedOutlet (some 2)))).esc 1).failed = [{ head := 1, outlet := 0 }] ∧
      after (.shedFailed 1 loadedFeed) (loaded (shedding markedOutlet (some 1))) = loaded (shedding markedOutlet (some 1)) := by
  decide +kernel

/-- The close after the one that ARM_EXPIRY names takes no second step: the countdown is gone and the outlet awaits at age 0. -/
theorem test_one_stage_step_for_each_settle :
    ((after .close (after (.armExpiry 1 loadedFeed) (loaded (armed 1 .clear)))).esc 1).awaiting =
      some { addr := { head := 1, outlet := 0 }, direction := .off, age := 0 } := by decide +kernel

theorem test_witness_EscalationStepsOfTheTable_restore :
    (((restoring { markedOutlet with switchState := .off } (some 2)).esc 1).stage = .restoring ∧
        ((restoring { markedOutlet with switchState := .off } (some 2)).outlet (1 * 48 + 0)).shedMark = true ∧
        ((restoring { markedOutlet with switchState := .off } (some 2)).outlet (1 * 48 + 0)).switchState ≠ .on) ∧
      ((restoring markedOutlet none).esc 1).shedOrder = [] ++ [{ head := 1, outlet := 0 }] ∧
      ((restoring markedOutlet none).outlet (1 * 48 + 0)).switchState = .on ∧
      (((restoring ownOutlet none).esc 1).shedOrder = [] ∧ ((restoring ownOutlet none).tenant 1).slot = .restoreOutlets 4 ∧
        ((restoring ownOutlet none).esc 1).tallies = some { confirmed := 0, alreadyOn := 0, atLimit := 0 }) ∧
      32 ≤ (crowded (restoring ownOutlet none)).tp.completions.length ∧
      restoreLimits 1 (entryOf (loaded (restoring { markedOutlet with switchState := .off } (some 2)))).state = true ∧
      (after (.restoreLimit 1) (loaded (restoring { markedOutlet with switchState := .off } (some 2)))).tp.completions.map Completion.outcome =
        [.partialRestore] ∧
      (goOnNewest 1 (restoring markedOutlet none)).tp.completions.map Completion.outcome = [.restored] ∧
      (goOnNewest 1 (restoring { markedOutlet with switchState := .off } none)).mlc.switchQueue.map SwitchEntry.direction = [.on] := by
  decide +kernel

theorem test_witness_EscalationStepsOfTheTable_refused :
    addAnswer ((List.range 16).map offEntry) { addr := { head := 1, outlet := 0 }, direction := .on, tenant := 1 } = .refused ∧
      addAnswer (restoring { markedOutlet with switchState := .off } none).mlc.switchQueue
          { addr := { head := 1, outlet := 0 }, direction := .on, tenant := 1 } ≠ .refused ∧
      ((restoring markedOutlet none).esc 1).awaiting = none ∧ (restoring ownOutlet none).tp.completions.length < 32 := by decide +kernel

/-! ### Witnesses: notices -/

theorem test_witness_LatchAddsACauseOnce :
    (State.reset.tenant 1).state = .vacant ∧ ((housing .active).tenant 1).state ≠ .vacant ∧
      (latchTenant .outletSuspect 1 State.reset).nu = State.reset.nu ∧ ((latchTenant .outletSuspect 1 (housing .active)).causes 1).latched = 0x0400 ∧
      (latchTenant .outletSuspect 1 (housing .active)).nu.queue = [0, 1] := by decide +kernel

theorem test_witness_AcknowledgementsAndTheUnitMask :
    (127 < 128 ∧ (0x0400 : BitVec 16) &&& 0xFC00 ≠ 0 ∧ (0x0800 : BitVec 16) &&& 0xF800 ≠ 0 ∧ (0x03FF : BitVec 16) &&& 0xFC00 = 0 ∧
        (0x07FF : BitVec 16) &&& 0xF800 = 0) ∧
      (State.reset.tenant 127).state = .vacant ∧ ((housing .active).tenant 1).state ≠ .vacant ∧
      (owning (.ackNotice 1 1 8) (housing .active)).tp.path = .atOwner (.ackNotice 1 1 8) ∧
      status (after (.ackNotice 1 128 8) State.reset) = some .invalidParameter ∧
      status (after (.ackNotice 1 127 8) State.reset) = some .incorrectState ∧ result (after (.ackNotice 1 0 8) State.reset) = [0, 0] ∧
      (after (.ackNotice 1 0 8) State.reset).nu.queue = [] ∧ result (after (.setNoticeMask 1 1) State.reset) = [3, 0xFF] ∧
      status (after (.setNoticeMask 1 0x0400) State.reset) = some .invalidParameter := by decide +kernel

/-! ### Witnesses: the trunk -/

/-- A reception in progress, and a window at `n` ticks. -/
def listening (n : Nat) : State :=
  trunk { State.reset.tp with rx := some (sentCharacters [0]), window := some { addr := 1, ticks := n, own := false } }

/-- A DOWN ORDER for unit 0 with tag 9. -/
def orderFrame (payload : List Byte) : List Byte := withCrc16 ([0x00, 0x01, 0x09, b1 payload.length] ++ payload)

theorem test_witness_TrunkFrameIsHandledByTheFirstCase_checks :
    (State.reset.tp.sending = .nothing ∧ State.reset.tp.rx = none) ∧
      (([0, 1, 9, 1, 0x12, 0, 0] : List Byte).length = [(0x12 : Byte)].length + 6 ∧
        ([0, 1, 9, 1, 0x12, 0, 0] : List Byte) ≠ withCrc16 [0, 1, 9, 1, 0x12]) ∧
      ((0x80 : Byte).getLsbD 7 = true ∧ (0x00 : Byte).getLsbD 7 = false ∧ (0x40 : Byte).getLsbD 6 = true) ∧
      (0x3C : Byte).extractLsb' 2 4 ≠ State.reset.tp.unitAddr ∧ (0x03 : Byte).extractLsb' 2 4 = State.reset.tp.unitAddr ∧
      (trunk replyingPort).tp.path ≠ .free ∧
      (trunk { State.reset.tp with window := some { addr := 15, ticks := 0, own := false } }).tp.window = some { addr := 15, ticks := 0, own := false } ∧
      ((after (trunkOf (sentCharacters [0, 1, 9, 1, 0x12, 0, 0])) State.reset).nu.unit.latched.getLsbD 7) = true ∧
      (after (trunkOf (sentCharacters (withCrc16 [0xBC, 2, 9, 0])))
          (trunk { State.reset.tp with window := some { addr := 15, ticks := 0, own := false } })).tp.window = none ∧
      (after (trunkOf (sentCharacters (withCrc16 [0x40, 1, 9, 2, 0x02, 2]))) State.reset).tp.resetCause = .orderAccounts ∧
      (after (trunkOf (sentCharacters (withCrc16 [0x40, 1, 9, 2, 0x02, 2]))) (owning (.start 1) State.reset)).tp.broadcasts =
        [.broadcastResetUnit 2] ∧
      (after (trunkOf (sentCharacters (withCrc16 [0x40, 1, 9, 1, 0x11])))
          (trunk { State.reset.tp with window := some { addr := 1, ticks := 4, own := false } })).tp.window = none ∧
      (bytesOf (sentCharacters (withCrc16 [0x40, 1, 9, 1, 0x11])) = withCrc16 [0x40, 1, 9, 1, 0x11] ∧
        anyFramingError (sentCharacters (withCrc16 [0x40, 1, 9, 1, 0x11])) = false) := by decide +kernel

theorem test_witness_TrunkFrameIsHandledByTheFirstCase_orders :
    ((0x00 : Byte).toNat ∉ orderCodes ∧ (0x12 : Byte).toNat ∈ orderCodes ∧ decodeOrder 9 (0x12 : Byte).toNat [0] = none ∧
        decodeOrder 9 (0x12 : Byte).toNat [] = some (.halt 9)) ∧
      status (after (trunkOf (sentCharacters (orderFrame []))) State.reset) = some .unknownOrder ∧
      status (after (trunkOf (sentCharacters (orderFrame [0]))) State.reset) = some .unknownOrder ∧
      status (after (trunkOf (sentCharacters (orderFrame [0x12, 0]))) State.reset) = some .invalidParameter ∧
      (after (trunkOf (sentCharacters (orderFrame [0x12]))) State.reset).tp.path = .atOwner (.halt 9) := by decide +kernel

theorem test_witness_ReceptionsAndWindowsEnd :
    ((listening 5).tp.sending = .nothing ∧ (listening 5).tp.rx ≠ none) ∧ (trunk replyingPort).tp.sending ≠ .nothing ∧ State.reset.tp.rx = none ∧
      (listening 4).tp.window = some { addr := 1, ticks := 4, own := false } ∧ State.reset.tp.window = none ∧
      ((after .trunkReceptionIdleEnd (listening 5)).nu.unit.latched.getLsbD 7) = true ∧ (after .replyWindowExpiry (listening 5)).tp.window = none ∧
      after .replyWindowExpiry (listening 4) = listening 4 := by decide +kernel

/-- Two frames in one command: the first for another unit, the second an order for this one; the framing error of the first stays with it. -/
theorem test_two_frames_in_one_command :
    (after (trunkOf (sentCharacters (withCrc16 [0x04, 1, 9, 1, 0x11] ++ orderFrame [0x12]))) State.reset).tp.path = .atOwner (.halt 9) ∧
      (after (trunkOf (broken (withCrc16 [0x04, 1, 9, 1, 0x11]) ++ sentCharacters (orderFrame [0x12]))) State.reset).tp.path =
        .atOwner (.halt 9) ∧
      ((after (trunkOf (broken (withCrc16 [0x04, 1, 9, 1, 0x11]) ++ sentCharacters (orderFrame [0x12]))) State.reset).nu.unit.latched.getLsbD
        7) = true ∧
      (after (trunkOf (sentCharacters [0x04, 1, 9])) (listening 4)).tp.rx = some (sentCharacters [0, 0x04, 1, 9]) := by decide +kernel

/-- A reply waits, its slot filled in its own window or not, the window open or none. -/
def replyWaiting (prompt : Bool) : State :=
  trunk { replyingPort with sending := .nothing, prompt := prompt, window := none, idleTicks := if prompt then 0 else 2 }

/-- The trunk is idle through the gap, with a frame in hand or none. -/
def gap (f : Option UpFrame) : State := trunk { State.reset.tp with idleTicks := 2, inHand := f }

/-- An annotated copy of 32 entries. -/
def wideCopy : ForwardFrame :=
  { head := 1, stamp := 3, flags := { a := true, b := true }
    entries := List.replicate 32 { outlet := 0, switchState := .on, flag := .normal, primary := 1, delta := 1 } }

/-- The first two characters of the reply on the trunk: 0x80 and 0x02, each from its start bit to its stop bit; TP puts 1 on an idle trunk. -/
theorem test_levels_of_the_trunk :
    let s := after .replyStart (replyWaiting true)
    (List.range 20).map s.tkLevel = [false, true, false, false, false, false, false, false, false, true] ++
        [false, false, false, false, false, false, false, true, false, true] ∧
      s.tkCharacters.take 2 = [sentCharacter 0x80, sentCharacter 0x02] ∧ s.tkCharacters.length = s.tp.lastSent.length ∧ s.tkLevel 10000 = true ∧
      s.tkLine true 1 = true ∧ s.tkLine false 1 = false ∧ s.tkLine true 0 = false ∧
      (replyWaiting true).tkCharacters = [] ∧ (replyWaiting true).tkLevel 0 = true ∧ (after .frameTransmitEnd s).tkLevel 0 = true ∧
      (after (.arbitrationLost true) s).tkLevel 0 = true := by decide +kernel

theorem test_witness_RepliesAndFramesAreSent :
    ((replyWaiting true).tp.slot ≠ none ∧ PromptNow (replyWaiting true).tp ∧ ¬ GapOver (replyWaiting true).tp) ∧
      (GapOver (replyWaiting false).tp ∧ ¬ PromptNow (replyWaiting false).tp) ∧ State.reset.tp.slot = none ∧
      ((trunk replyingPort).tp.sending = .reply ∧ (trunk replyingPort).tp.reset = none) ∧
      ((trunk { State.reset.tp with sending := .inHand, inHand := some (.notice aNotice) }).tp.inHand = some (.notice aNotice)) ∧
      (after .replyStart (replyWaiting true)).tp.sending = .reply ∧ (after .replyStart (replyWaiting false)).tp.lastSent.take 6 = [0x80, 2, 1, 2, 0x12, 3] ∧
      (after .frameTransmitEnd (after .replyStart (replyWaiting false))).tp.path = .free ∧
      (after (.arbitrationLost true) (trunk replyingPort)).tp.rx = some [] ∧
      (after .frameTransmitEnd (after .idleGap (gap (some (.forward wideCopy .first))))).tp.inHand = some (.forward wideCopy .second) := by
  unfold GapOver PromptNow
  decide +kernel

/-- A reply filled in its window stays prompt when the line is busy past the window's end; one that has lost the line waits for the gap; one filled
after a broadcast closed its window waits for the gap (R186, R187). -/
theorem test_prompt_reply :
    let filled := after (.halt 5) State.reset
    let late := after .replyWindowExpiry (List.range 5 |>.foldl (fun s _ => after .tick s) filled)
    let heard := after (trunkOf (sentCharacters (withCrc16 [0x04, 3, 9, 0]))) late
    late.tp.window = none ∧ (after .replyStart heard).tp.sending = .reply ∧
      (after .replyStart (after (.arbitrationLost false) (after .replyStart heard))).tp.sending = .nothing ∧
      (after .replyStart (after (.halt 5) (after .broadcastHalt (after (trunkOf (sentCharacters (orderFrame [0x12]))) State.reset)))).tp.sending =
        .nothing := by decide +kernel

/-- A window of the reply's own order, or of another one, is open. -/
theorem test_witness_RepliesAndFramesAreSent_windows :
    PromptNow { (replyWaiting true).tp with window := some { addr := 0, ticks := 0, own := true } } ∧
      ¬ PromptNow { (replyWaiting true).tp with window := some { addr := 3, ticks := 0, own := false } } ∧
      after .replyStart (trunk { (replyWaiting true).tp with window := some { addr := 3, ticks := 0, own := false } }) =
        trunk { (replyWaiting true).tp with window := some { addr := 3, ticks := 0, own := false } } := by
  unfold PromptNow
  decide +kernel

/-- The gap is over with the Notice Queue and the queues of TP as given. -/
def sources (q : List Nat) (p : TrunkPort) : State :=
  { State.reset with nu := { State.reset.nu with queue := q }, tp := { p with idleTicks := 2 } }

/-- A completion, and a summary record. -/
def aCompletion : Completion := { code := 0x32, tag := 9, outcome := .released, body := .release { head := 1, outlet := 0 } }
def aSummary : Summary :=
  { tenant := 1, period := 3, energyA := 0, energyB := 0, rateA := 0, rateB := 0, demand := none, burstState := .clear, demandState := .clear
    stage := .idle, incomplete := false }

theorem test_witness_ArbiterTakesTheFirstSource :
    (GapOver (gap none).tp ∧ ¬ GapOver State.reset.tp ∧ (replyWaiting true).tp.slot ≠ none) ∧
      ((gap (some (.notice aNotice))).tp.inHand = some (.notice aNotice) ∧ (sources [0] State.reset.tp).tp.inHand = none) ∧
      (after .idleGap (sources [0] { State.reset.tp with completions := [aCompletion] })).tp.inHand = some (.completion aCompletion) ∧
      (after .idleGap (sources [0, 1] State.reset.tp)).tp.inHand = some (.notice aNotice) ∧
      (after .idleGap (sources [1, 0] State.reset.tp)).nu.queue = [0] ∧
      (after .idleGap (sources [] { State.reset.tp with summaries := [aSummary] })).tp.inHand = some (.summary aSummary) ∧
      (after .idleGap (sources [] { State.reset.tp with forwards := [wideCopy] })).tp.inHand = some (.forward wideCopy .first) ∧
      after .idleGap (sources [] State.reset.tp) = sources [] State.reset.tp := by
  unfold GapOver
  decide +kernel

theorem test_witness_IdentifyAnswersTheIdentity :
    (owning (.identify 1) (housing .active)).tp.path = .atOwner (.identify 1) ∧
      result (after (.identify 1) (housing .active)) =
        [0x0E, 0x51, 0x22, 0x70, 1, 0, 0, 1, 0, 0, 0, 0, 1, 0, 0, 0, 0, 0, 0, 0, 0, 0, 0] := by decide +kernel

theorem test_witness_LockAndUnlockGroups :
    (owning (.lockGroups 1 1) State.reset).tp.path = .atOwner (.lockGroups 1 1) ∧ State.reset.tp.service = false ∧
      (trunk { State.reset.tp with service := true, lockMap := 3 }).tp.service = true ∧
      result (after (.lockGroups 1 0x8001) State.reset) = [0x80, 1] ∧ status (after (.unlockGroups 1 1) State.reset) = some .locked ∧
      result (after (.unlockGroups 1 1) (trunk { State.reset.tp with service := true, lockMap := 3 })) = [0, 2] := by decide +kernel

/-! ### Witnesses: the tables and the invariant -/

theorem test_witness_TablesReadBackAndStayCanonical :
    tableWf Outlet.initial [(48, ownOutlet)] ∧ (49 ≠ 48) ∧ ¬ tableWf Outlet.initial [(48, Outlet.initial)] ∧
      ¬ tableWf Outlet.initial [(49, ownOutlet), (48, ownOutlet)] ∧ tableSet Outlet.initial [(48, ownOutlet)] 48 Outlet.initial = [] := by
  decide +kernel

/-- A unit in RUNNING with a command at the front has the invariant, and its step answers a next state. -/
theorem test_witness_EveryStepKeepsTheInvariant :
    BlockInv { running 2 with pending := [.tick] } ∧ ∃ t, step { running 2 with pending := [.tick] } = .next t :=
  ⟨{ cadence := ⟨by decide, fun _ => ⟨rfl, 2, rfl, by decide, by decide⟩, fun h => absurd rfl h, nofun⟩
     feeds := ⟨fun _ => rfl, fun _ => rfl⟩
     switchQueue := ⟨by decide, by decide⟩
     noticeQueue := by unfold NoticeQueueInv; decide
     trunk := ⟨by decide, by decide, by decide, by decide, by decide, nofun, nofun, fun h => absurd rfl h⟩ },
    _, rfl⟩

end Sys2Proof.Tests
end

section
/-! How an order that is with its owner is answered, what START hands back in each run state, and the statement about START. -/

namespace Sys2Proof.Stated

open Sys2Proof.Machine

/-! ### An order with its owner -/

/-- The reply window of the order in the path, as the statements read it (R186, R187). -/
theorem inOwnWindow_eq (p : TrunkPort) : p.inOwnWindow = match p.window with | some w => w.own | none => false := by
  unfold TrunkPort.inOwnWindow
  cases p.window <;> rfl

theorem fillSlot_eq_replied (tag : Byte) (code : Nat) (a : Answer) (s : State) :
    fillSlot tag code a s = { s with tp := replied tag code a.status a.result s.tp } := by
  simp only [fillSlot, State.onTp, inOwnWindow_eq]
  rfl

theorem onTp_broadcasts_nil {s : State} (h : s.tp.broadcasts = []) : (s.onTp fun p => { p with broadcasts := [] }) = s := by
  unfold State.onTp
  rw [← h]

/-- With no broadcast order behind it, an order that is with its owner leaves the owner's state with the owner's answer in the Reply slot. -/
theorem takeOrder_of_atOwner {c : Instr} {s : State} (h : AtOwner c s) (tag : Byte) (code : Nat) (owner : State → State × Answer) :
    takeOrder c tag code owner s =
      { (owner s).1 with tp := replied tag code (owner s).2.status (owner s).2.result (owner s).1.tp } := by
  obtain ⟨hpath, hnone⟩ := h
  rw [takeOrder, if_pos hpath, answerOrder, onTp_broadcasts_nil hnone, hnone, List.foldl_nil, fillSlot_eq_replied]

/-! ### What the owner of START answers (R3, R5, R6) -/

theorem ownStart_of_refused {s : State} (h : s.ct.runState = .running ∨ s.ct.configured = false) :
    ownStart s = (s, .plain .incorrectState) :=
  if_pos h

theorem ownStart_of_config {s : State} (hrun : s.ct.runState = .config) (hconf : s.ct.configured = true) :
    ownStart s = (startFrom 0 s, .done [0, 0]) := by
  have hok : ¬ (s.ct.runState = .running ∨ s.ct.configured = false) := by simp [hrun, hconf]
  rw [ownStart, if_neg hok, if_pos hrun]
  rfl

theorem ownStart_of_halted {s : State} (hrun : s.ct.runState = .halted) (hconf : s.ct.configured = true) :
    ownStart s = (markNoBaseline (fun _ => true) (startFrom (s.ct.n + 1) s), .done (be 2 (s.ct.n + 1).toNat)) := by
  have hok : ¬ (s.ct.runState = .running ∨ s.ct.configured = false) := by simp [hrun, hconf]
  rw [ownStart, if_neg hok, if_neg (by simp [hrun])]

/-- The outlets picked out lose their baseline; an unlisted outlet has none to lose. -/
theorem outlet_markNoBaseline (which : Nat → Bool) (s : State) (k : Nat) :
    (markNoBaseline which s).outlet k = if which k then { s.outlet k with baseline := .noBaseline } else s.outlet k := by
  have hunlisted : (if which k then { Outlet.initial with baseline := .noBaseline } else Outlet.initial) = Outlet.initial := ite_self _
  exact tableGet_tableMap Outlet.initial (fun k o => if which k then { o with baseline := .noBaseline } else o) s.ot.outlets k hunlisted

/-! ### START -/

/-- START at its owner: CT's answer, in the Reply slot. -/
theorem exec_start_of_atOwner {tag : Byte} {s t : State} {a : Answer} (h : AtOwner (.start tag) s) (hown : ownStart s = (t, a)) :
    exec (.start tag) s = .next { t with tp := replied tag 0x11 a.status a.result t.tp } := by
  have hexec : exec (.start tag) s = .next (takeOrder (.start tag) tag 0x11 ownStart s) := rfl
  rw [hexec, takeOrder_of_atOwner h, hown]

/-- Settles O12: the three outcomes of START are the three cases of CT's answer. -/
theorem startBeginsOrResumesTheCadence : Obligations.StartBeginsOrResumesTheCadence := by
  intro tag s h
  refine ⟨fun hbad => ?refused, fun hrun hconf => ?config, fun hrun hconf => ?halted⟩
  case refused => exact exec_start_of_atOwner h (ownStart_of_refused hbad)
  case config => exact exec_start_of_atOwner h (ownStart_of_config hrun hconf)
  case halted =>
    exact ⟨_, exec_start_of_atOwner h (ownStart_of_halted hrun hconf), rfl, outlet_markNoBaseline _ (startFrom (s.ct.n + 1) s)⟩

end Sys2Proof.Stated
end

section
/-! The range, lock and state checks of the Outlet Table's orders read as the statements write them, what OT answers to BIND-OUTLET and
ALTER-OUTLET check by check, and the statements about these two orders. -/

namespace Sys2Proof.Stated

open Sys2Proof.Machine

/-! ### An order command from the answer of its owner -/

section OwnerAnswers

variable {c : Instr} {tag : Byte} {code : Nat} {owner : State → State × Answer} {s : State}

/-- An order command at its owner: the owner's state, with the owner's answer in the Reply slot. -/
theorem exec_order_of_atOwner {t : State} {a : Answer} (hexec : exec c s = .next (takeOrder c tag code owner s)) (h : AtOwner c s)
    (hown : owner s = (t, a)) : exec c s = .next { t with tp := replied tag code a.status a.result t.tp } := by
  rw [hexec, takeOrder_of_atOwner h, hown]

theorem refused_of_owner {status : Status} (hexec : exec c s = .next (takeOrder c tag code owner s)) (h : AtOwner c s)
    (hown : owner s = (s, .plain status)) : Refused c tag code status s :=
  exec_order_of_atOwner hexec h hown

end OwnerAnswers

/-! ### The checks of the Outlet Table's orders (3.1, R38, R44, R46) -/

theorem outletKey_eq (h o : Nat) : outletKey h o = h * 48 + o := rfl

theorem validHead_iff (h : Nat) : validHead h = true ↔ 1 ≤ h ∧ h ≤ 32 := decide_eq_true_iff

theorem validOutlet_iff (h o : Nat) : validOutlet h o = true ↔ IsOutlet h o := by
  have hlast : o < 48 ↔ o ≤ 47 := Nat.lt_succ_iff
  simp only [validOutlet, Bool.and_eq_true, validHead_iff, decide_eq_true_iff, IsOutlet, Config.outletsPerHead, hlast, and_assoc]

theorem ratingInRange_iff (i p : Nat) : ratingInRange i p = true ↔ 1 ≤ i ∧ i ≤ 63 ∧ p ≤ 7 := decide_eq_true_iff

theorem validTenant_iff (n : Nat) : validTenant n = true ↔ 1 ≤ n ∧ n ≤ 127 := decide_eq_true_iff

theorem shareListOk_iff (es : List (Nat × Nat)) :
    shareListOk es = true ↔
      1 ≤ es.length ∧ es.length ≤ 4 ∧ (∀ e ∈ es, 1 ≤ e.1 ∧ e.1 ≤ 127) ∧ (es.map Prod.fst).Nodup ∧ (∀ e ∈ es, 1 ≤ e.2) ∧
        (es.map Prod.snd).sum = 256 := by
  simp only [shareListOk, Bool.and_eq_true, decide_eq_true_eq, List.all_eq_true, validTenant_iff, and_assoc]

/-- The first check of BIND-OUTLET is the list of ranges of R44. -/
theorem bindInRange_iff (f : BindFields) : bindInRange f = true ↔ BindRanges f := by
  simp only [bindInRange, BindRanges, Bool.and_eq_true, decide_eq_true_eq, validOutlet_iff, ratingInRange_iff, shareListOk_iff, and_assoc]

/-- Some tenant that an order lists is locked. -/
theorem any_locked_iff (es : List (Nat × Nat)) (s : State) :
    (es.any fun e => s.locked e.1) = true ↔ ∃ e ∈ es, GroupLocked s e.1 :=
  List.any_eq_true

/-- An outlet with no share list is never locked (R46). -/
theorem outletLocked_iff (s : State) (o : Outlet) : s.outletLocked o = true ↔ SomeLocked s o := by
  simp only [State.outletLocked, Outlet.tenants, List.any_map, List.any_eq_true, SomeLocked]
  rfl

theorem bindable_iff (s : State) (n : Nat) : s.bindable n = true ↔ (s.tenant n).state = .active ∨ (s.tenant n).state = .held :=
  decide_eq_true_iff

/-- ACTIVE and HELD are the states that VACANT and CLOSING leave. -/
theorem bindable_eq_false_iff (s : State) (n : Nat) :
    s.bindable n = false ↔ (s.tenant n).state = .vacant ∨ (s.tenant n).state = .closing := by
  rw [← Bool.not_eq_true, bindable_iff]
  cases (s.tenant n).state <;> simp

theorem all_bindable_iff (es : List (Nat × Nat)) (s : State) :
    (es.all fun e => s.bindable e.1) = true ↔ ∀ e ∈ es, (s.tenant e.1).state = .active ∨ (s.tenant e.1).state = .held := by
  simp only [List.all_eq_true, bindable_iff]

theorem all_bindable_eq_false_iff (es : List (Nat × Nat)) (s : State) :
    (es.all fun e => s.bindable e.1) = false ↔ ∃ e ∈ es, (s.tenant e.1).state = .vacant ∨ (s.tenant e.1).state = .closing := by
  simp only [List.all_eq_false, Bool.not_eq_true, bindable_eq_false_iff]

/-! ### What OT answers to BIND-OUTLET (R44, R45) -/

section Bind

variable {f : BindFields} {s : State}

theorem ownBindOutlet_of_not_ranges (hr : ¬ BindRanges f) : ownBindOutlet f s = (s, .plain .invalidParameter) := by
  rw [← bindInRange_iff, Bool.not_eq_true] at hr
  rw [ownBindOutlet, if_pos hr]

theorem ownBindOutlet_of_ranges (hr : BindRanges f) :
    ownBindOutlet f s =
      if f.entries.any fun e => s.locked e.1 then (s, .plain .locked)
      else if (s.outlet (f.head * 48 + f.outlet)).binding ≠ .unbound ∨ (f.entries.all fun e => s.bindable e.1) = false then
        (s, .plain .incorrectState)
      else (bindOutlet f s, .done (be 4 (nextBind s.ot.bindCounter))) := by
  rw [← bindInRange_iff] at hr
  rw [ownBindOutlet, if_neg (by simp [hr]), outletKey_eq]

theorem ownBindOutlet_of_locked (hr : BindRanges f) (hl : ∃ e ∈ f.entries, GroupLocked s e.1) :
    ownBindOutlet f s = (s, .plain .locked) := by
  rw [ownBindOutlet_of_ranges hr, if_pos ((any_locked_iff f.entries s).2 hl)]

/-- Past the lock check the state of the outlet and of the tenants decides. -/
theorem ownBindOutlet_of_unlocked (hr : BindRanges f) (hl : ∀ e ∈ f.entries, ¬ GroupLocked s e.1) :
    ownBindOutlet f s =
      if (s.outlet (f.head * 48 + f.outlet)).binding ≠ .unbound ∨ (f.entries.all fun e => s.bindable e.1) = false then
        (s, .plain .incorrectState)
      else (bindOutlet f s, .done (be 4 (nextBind s.ot.bindCounter))) := by
  have hno : ¬ (f.entries.any fun e => s.locked e.1) = true := by
    rw [any_locked_iff]
    exact fun ⟨e, he, hlocked⟩ => hl e he hlocked
  rw [ownBindOutlet_of_ranges hr, if_neg hno]

theorem ownBindOutlet_of_bad_state (hr : BindRanges f) (hl : ∀ e ∈ f.entries, ¬ GroupLocked s e.1)
    (hbad : (s.outlet (f.head * 48 + f.outlet)).binding ≠ .unbound ∨
      ∃ e ∈ f.entries, (s.tenant e.1).state = .vacant ∨ (s.tenant e.1).state = .closing) :
    ownBindOutlet f s = (s, .plain .incorrectState) := by
  rw [← all_bindable_eq_false_iff] at hbad
  rw [ownBindOutlet_of_unlocked hr hl, if_pos hbad]

theorem ownBindOutlet_of_accepted (hr : BindRanges f) (hl : ∀ e ∈ f.entries, ¬ GroupLocked s e.1)
    (hunbound : (s.outlet (f.head * 48 + f.outlet)).binding = .unbound)
    (hten : ∀ e ∈ f.entries, (s.tenant e.1).state = .active ∨ (s.tenant e.1).state = .held) :
    ownBindOutlet f s = (bindOutlet f s, .done (be 4 (nextBind s.ot.bindCounter))) := by
  rw [← all_bindable_iff] at hten
  rw [ownBindOutlet_of_unlocked hr hl, if_neg (by simp [hunbound, hten])]

/-- A bind writes one record of the table. -/
theorem outlet_bindOutlet (k : Nat) :
    (bindOutlet f s).outlet k =
      (s.setOutlet (f.head * 48 + f.outlet) (boundRecord f (nextBind s.ot.bindCounter) (s.outlet (f.head * 48 + f.outlet)))).outlet k :=
  rfl

/-- The outlet that is bound takes the binding group. -/
theorem outlet_bindOutlet_same :
    (bindOutlet f s).outlet (f.head * 48 + f.outlet) =
      boundRecord f (nextBind s.ot.bindCounter) (s.outlet (f.head * 48 + f.outlet)) := by
  rw [outlet_bindOutlet, State.outlet_setOutlet_same]

/-- No other outlet is touched by a bind. -/
theorem outlet_bindOutlet_other {k : Nat} (hk : k ≠ f.head * 48 + f.outlet) : (bindOutlet f s).outlet k = s.outlet k := by
  rw [outlet_bindOutlet, State.outlet_setOutlet_other s _ hk.symm]

end Bind

/-- Settles O22: the refusals are OT's first three checks; an accepted bind writes one outlet record, the bind counter and the count. -/
theorem bindOutletBindsAtOnce : Obligations.BindOutletBindsAtOnce := by
  intro tag f s h
  have hexec : exec (.bindOutlet tag f) s = .next (takeOrder (.bindOutlet tag f) tag 0x30 (ownBindOutlet f) s) := rfl
  refine ⟨fun hr => ?ranges, fun hr hl => ?locked, fun hr hl hbad => ?state, fun hr hl hunbound hten => ?accepted⟩
  case ranges => exact refused_of_owner hexec h (ownBindOutlet_of_not_ranges hr)
  case locked => exact refused_of_owner hexec h (ownBindOutlet_of_locked hr hl)
  case state => exact refused_of_owner hexec h (ownBindOutlet_of_bad_state hr hl hbad)
  case accepted =>
    exact ⟨_, exec_order_of_atOwner hexec h (ownBindOutlet_of_accepted hr hl hunbound hten), rfl, outlet_bindOutlet_same,
      fun _ => outlet_bindOutlet_other⟩

/-! ### What OT answers to ALTER-OUTLET (R46, R47) -/

/-- Every range check of ALTER-OUTLET passes, for an outlet with the record `x`. -/
def AlterRanges (h o i p : Nat) (x : Outlet) : Prop := IsOutlet h o ∧ 1 ≤ i ∧ i ≤ 63 ∧ p ≤ 7 ∧ (p = 0 ∨ x.shares.length ≤ 1)

/-- The first check of ALTER-OUTLET is the list of ranges of R46. -/
theorem alterInRange_iff (h o i p : Nat) (x : Outlet) :
    (validOutlet h o && ratingInRange i p && decide (p = 0 ∨ x.shares.length ≤ 1)) = true ↔ AlterRanges h o i p x := by
  simp only [AlterRanges, Bool.and_eq_true, decide_eq_true_eq, validOutlet_iff, ratingInRange_iff, and_assoc]

section Alter

variable {h o i p : Nat} {s : State}

theorem ownAlterOutlet_of_not_ranges (hr : ¬ AlterRanges h o i p (s.outlet (h * 48 + o))) :
    ownAlterOutlet h o i p s = (s, .plain .invalidParameter) := by
  rw [← alterInRange_iff, Bool.not_eq_true] at hr
  exact if_pos hr

theorem ownAlterOutlet_of_ranges (hr : AlterRanges h o i p (s.outlet (h * 48 + o))) :
    ownAlterOutlet h o i p s =
      if s.outletLocked (s.outlet (h * 48 + o)) then (s, .plain .locked)
      else if (s.outlet (h * 48 + o)).binding ≠ .bound then (s, .plain .incorrectState)
      else
        (s.setOutlet (h * 48 + o) { s.outlet (h * 48 + o) with current := i, priority := p },
          .done (be 1 (s.outlet (h * 48 + o)).current ++ be 1 (s.outlet (h * 48 + o)).priority)) := by
  rw [← alterInRange_iff, ← Bool.not_eq_false] at hr
  exact if_neg hr

theorem ownAlterOutlet_of_locked (hr : AlterRanges h o i p (s.outlet (h * 48 + o))) (hl : SomeLocked s (s.outlet (h * 48 + o))) :
    ownAlterOutlet h o i p s = (s, .plain .locked) := by
  rw [← outletLocked_iff] at hl
  rw [ownAlterOutlet_of_ranges hr, if_pos hl]

theorem ownAlterOutlet_of_not_bound (hr : AlterRanges h o i p (s.outlet (h * 48 + o)))
    (hl : ¬ SomeLocked s (s.outlet (h * 48 + o))) (hb : (s.outlet (h * 48 + o)).binding ≠ .bound) :
    ownAlterOutlet h o i p s = (s, .plain .incorrectState) := by
  rw [← outletLocked_iff] at hl
  rw [ownAlterOutlet_of_ranges hr, if_neg hl, if_pos hb]

theorem ownAlterOutlet_of_bound (hr : AlterRanges h o i p (s.outlet (h * 48 + o)))
    (hl : ¬ SomeLocked s (s.outlet (h * 48 + o))) (hb : (s.outlet (h * 48 + o)).binding = .bound) :
    ownAlterOutlet h o i p s =
      (s.setOutlet (h * 48 + o) { s.outlet (h * 48 + o) with current := i, priority := p },
        .done (be 1 (s.outlet (h * 48 + o)).current ++ be 1 (s.outlet (h * 48 + o)).priority)) := by
  rw [← outletLocked_iff] at hl
  rw [ownAlterOutlet_of_ranges hr, if_neg hl, if_neg (not_not_intro hb)]

end Alter

/-- A write of one outlet record changes that record alone. -/
theorem oneOutlet_setOutlet (s : State) (k : Nat) (x : Outlet) : OneOutlet k x s (s.setOutlet k x) :=
  ⟨rfl, State.outlet_setOutlet_same s k x, fun _ hj => State.outlet_setOutlet_other s x hj.symm⟩

/-- Settles O23: the refusals are OT's three checks; an accepted order writes one outlet record. -/
theorem alterOutletChangesRatingAndPriority : Obligations.AlterOutletChangesRatingAndPriority := by
  intro tag h o i p s hat
  have hexec : exec (.alterOutlet tag h o i p) s = .next (takeOrder (.alterOutlet tag h o i p) tag 0x31 (ownAlterOutlet h o i p) s) := rfl
  refine ⟨fun hr => ?ranges, fun ho hi1 hi63 hp hshared => ?inRange⟩
  case ranges => exact refused_of_owner hexec hat (ownAlterOutlet_of_not_ranges hr)
  case inRange =>
    have hr : AlterRanges h o i p (s.outlet (h * 48 + o)) := ⟨ho, hi1, hi63, hp, hshared⟩
    refine ⟨fun hl => ?locked, fun hl hb => ?state, fun hl hb => ?accepted⟩
    case locked => exact refused_of_owner hexec hat (ownAlterOutlet_of_locked hr hl)
    case state => exact refused_of_owner hexec hat (ownAlterOutlet_of_not_bound hr hl hb)
    case accepted =>
      exact ⟨_, oneOutlet_setOutlet s (h * 48 + o) _, exec_order_of_atOwner hexec hat (ownAlterOutlet_of_bound hr hl hb)⟩

end Sys2Proof.Stated
end

section

/-! ### Energy attribution: the split of a delta by shares (R67) -/

namespace Sys2Proof.Stated

open Sys2Proof.Machine

/-- The parts of the entries after the primary: each the floor of its exact share (R67). -/
def floorParts (d : Nat) (others : List ShareEntry) : List Nat := others.map fun x => d * x.share / 256

theorem splitDelta_cons (d : Nat) (e : ShareEntry) (others : List ShareEntry) :
    splitDelta d (e :: others) = (d - (floorParts d others).sum) :: floorParts d others := rfl

@[simp] theorem sum_floorParts_cons (d : Nat) (x : ShareEntry) (xs : List ShareEntry) :
    (floorParts d (x :: xs)).sum = d * x.share / 256 + (floorParts d xs).sum := List.sum_cons

/-- The floors never exceed the exact shares, taken together. -/
theorem sum_floorParts_le (d : Nat) (others : List ShareEntry) :
    256 * (floorParts d others).sum ≤ d * (others.map ShareEntry.share).sum := by
  induction others with
  | nil => exact Nat.zero_le _
  | cons x xs ih =>
    have hx : 256 * (d * x.share / 256) ≤ d * x.share := Nat.mul_div_le _ _
    simp only [sum_floorParts_cons, List.map_cons, List.sum_cons, Nat.mul_add]
    exact Nat.add_le_add hx ih

/-- Each truncation loses at most 255 parts of 256. -/
theorem le_sum_floorParts (d : Nat) (others : List ShareEntry) :
    d * (others.map ShareEntry.share).sum ≤ 256 * (floorParts d others).sum + 255 * others.length := by
  induction others with
  | nil => exact Nat.zero_le _
  | cons x xs ih =>
    have hx : d * x.share ≤ 256 * (d * x.share / 256) + 255 := by omega
    simp only [sum_floorParts_cons, List.map_cons, List.sum_cons, List.length_cons, Nat.mul_add]
    omega

section Shares

variable {d : Nat} {e : ShareEntry} {others : List ShareEntry} (hsum : ((e :: others).map ShareEntry.share).sum = 256)
include hsum

/-- The exact shares of the primary and of the others make up the delta. -/
theorem mul_share_add_mul_sum : d * e.share + d * (others.map ShareEntry.share).sum = 256 * d := by
  rw [← Nat.mul_add, ← List.sum_cons, ← List.map_cons, hsum, Nat.mul_comm]

/-- The remainder of the primary is never negative (R67), and it is at least the primary's own floor. -/
theorem primary_floor_add_sum_le : d * e.share / 256 + (floorParts d others).sum ≤ d := by
  have hexact := mul_share_add_mul_sum (d := d) hsum
  have hfloors := sum_floorParts_le d others
  omega

/-- The primary gathers at most one unit for each truncated part (R67). -/
theorem le_primary_floor_add_sum : d ≤ d * e.share / 256 + (floorParts d others).sum + others.length := by
  have hexact := mul_share_add_mul_sum (d := d) hsum
  have hfloors := le_sum_floorParts d others
  omega

/-- Since the primary holds at least one of the 256 shares, no other entry holds more than 255. -/
theorem share_le_of_mem (he : 1 ≤ e.share) {x : ShareEntry} (hx : x ∈ others) : x.share ≤ 255 := by
  have hle : x.share ≤ (others.map ShareEntry.share).sum := List.le_sum_of_mem (List.mem_map_of_mem hx)
  rw [List.map_cons, List.sum_cons] at hsum
  omega

end Shares

/-- Settles O28: the exact shares make up the delta, each floor loses less than one unit, and the primary takes what the floors leave. -/
theorem splitSumsToTheDelta : Obligations.SplitSumsToTheDelta := by
  intro d e others hsum he _
  have hlow : d * e.share / 256 + (floorParts d others).sum ≤ d := primary_floor_add_sum_le hsum
  have hhigh : d ≤ d * e.share / 256 + (floorParts d others).sum + others.length := le_primary_floor_add_sum hsum
  have hle : (floorParts d others).sum ≤ d := le_trans (Nat.le_add_left _ _) hlow
  refine ⟨splitDelta_cons d e others, hle, ?sum, ?single, ?bound, Nat.le_sub_of_add_le hlow, ?gathered⟩
  case sum => rw [splitDelta_cons, List.sum_cons, Nat.sub_add_cancel hle]
  case single =>
    rintro rfl
    rfl
  case bound =>
    intro x hx
    exact Nat.div_le_div_right (Nat.mul_le_mul_left d (share_le_of_mem hsum he hx))
  case gathered =>
    rw [Nat.sub_le_iff_le_add, Nat.add_right_comm]
    exact hhigh

end Sys2Proof.Stated
end

section

/-! ### The exceedance machines (R118 to R123) -/

namespace Sys2Proof.Stated

open Sys2Proof.Machine

/-- The open breach after an evaluation, as the statements write it (R123). -/
theorem upkeep_eq (ev : Evaluation) (b : OpenBreach) :
    upkeep ev b =
      { b with peak := max b.peak ev.peak, feeds := { a := b.feeds.a || ev.feedsOver.a, b := b.feeds.b || ev.feedsOver.b } } := rfl

section Evaluate

variable (g e : Nat) (c : Period) (complete : Bool) (ev : Evaluation) {m : ExceedanceMachine}

/-- From CLEAR an evaluation over enters BREACH at once with a grace of 0 or 1, and otherwise begins to count. -/
theorem evalMachine_of_clear (h : m.state = .clear) :
    evalMachine g e c complete ev m =
      if ev.band = .above then
        if g ≤ 1 then Entered c ev else .still { state := .pending, count := 1, breach := none }
      else .still m := by
  rw [evalMachine, h]
  rfl

/-- From PENDING an evaluation over counts towards the grace, and any other ends the count. -/
theorem evalMachine_of_pending (h : m.state = .pending) :
    evalMachine g e c complete ev m =
      if ev.band = .above then
        if g ≤ m.count + 1 then Entered c ev else .still { m with count := m.count + 1 }
      else .still ExceedanceMachine.initial := by
  rw [evalMachine, h]
  rfl

/-- From BREACH only a complete evaluation at or below exit moves the machine: it eases, or clears with an ease count of 0 or 1. -/
theorem evalMachine_of_breach (h : m.state = .breach) :
    evalMachine g e c complete ev m =
      if ev.band = .atExit ∧ complete = true then
        if e ≤ 1 then clearBreach (m.breach.map (upkeep ev)) else .still { state := .easing, count := 1, breach := m.breach.map (upkeep ev) }
      else .still { m with breach := m.breach.map (upkeep ev) } := by
  rw [evalMachine, h]

/-- From EASING a complete evaluation at or below exit counts towards the ease count, an incomplete one holds, and one above exit goes back
to BREACH. -/
theorem evalMachine_of_easing (h : m.state = .easing) :
    evalMachine g e c complete ev m =
      if ev.band = .atExit then
        if complete = true then
          if e ≤ m.count + 1 then clearBreach (m.breach.map (upkeep ev))
          else .still { m with count := m.count + 1, breach := m.breach.map (upkeep ev) }
        else .still { m with breach := m.breach.map (upkeep ev) }
      else { machine := { state := .breach, count := 0, breach := m.breach.map (upkeep ev) }, move := some .back, closed := none } := by
  rw [evalMachine, h]

end Evaluate

/-- Settles O35: one equation for each state of the machine, and in each the branch that the band, the completeness and the count choose. -/
theorem exceedanceMachinesMove : Obligations.ExceedanceMachinesMove := by
  refine ⟨?unbreached, ?breached⟩
  case unbreached =>
    rintro g e c complete ev m x rfl
    refine ⟨fun hm hev => ?clearNotOver, fun hm hev hg => ?clearEnters, fun hm hev hg => ?clearCounts, fun hm hev hg => ?pendingEnters,
      fun hm hev hg => ?pendingCounts, fun hm hev => ?pendingNotOver⟩
    case clearNotOver => rw [evalMachine_of_clear _ _ _ _ _ hm, if_neg hev, MachineStep.still]
    case clearEnters => rw [evalMachine_of_clear _ _ _ _ _ hm, if_pos hev, if_pos hg]
    case clearCounts => rw [evalMachine_of_clear _ _ _ _ _ hm, if_pos hev, if_neg (Nat.not_le.2 hg), MachineStep.still]
    case pendingEnters => rw [evalMachine_of_pending _ _ _ _ _ hm, if_pos hev, if_pos hg]
    case pendingCounts => rw [evalMachine_of_pending _ _ _ _ _ hm, if_pos hev, if_neg (Nat.not_le.2 hg), MachineStep.still]
    case pendingNotOver => rw [evalMachine_of_pending _ _ _ _ _ hm, if_neg hev, MachineStep.still, ExceedanceMachine.initial]
  case breached =>
    rintro g e c complete ev m b b' x hopen hb' rfl
    have hkept : m.breach.map (upkeep ev) = some b' := by rw [hopen, Option.map_some, upkeep_eq, ← hb']
    refine ⟨fun hm hnot => ?breachHeld, fun hm hev hfull he => ?breachEases, fun hm hev hfull he => ?breachClears, fun hm hev => ?easingBack,
      fun hm hev hpart => ?easingHeld, fun hm hev hfull he => ?easingCounts, fun hm hev hfull he => ?easingClears⟩
    case breachHeld =>
      have hstays : ¬ (ev.band = .atExit ∧ complete = true) := by
        rintro ⟨hev, hfull⟩
        rcases hnot with habove | hpart
        · exact habove hev
        · exact Bool.eq_false_iff.1 hpart hfull
      rw [evalMachine_of_breach _ _ _ _ _ hm, if_neg hstays, hkept, MachineStep.still]
    case breachEases =>
      rw [evalMachine_of_breach _ _ _ _ _ hm, if_pos ⟨hev, hfull⟩, if_neg (Nat.not_le.2 he), hkept, MachineStep.still]
    case breachClears =>
      rw [evalMachine_of_breach _ _ _ _ _ hm, if_pos ⟨hev, hfull⟩, if_pos he, hkept, clearBreach, ExceedanceMachine.initial]
    case easingBack => rw [evalMachine_of_easing _ _ _ _ _ hm, if_neg hev, hkept]
    case easingHeld => rw [evalMachine_of_easing _ _ _ _ _ hm, if_pos hev, if_neg (Bool.eq_false_iff.1 hpart), hkept, MachineStep.still]
    case easingCounts =>
      rw [evalMachine_of_easing _ _ _ _ _ hm, if_pos hev, if_pos hfull, if_neg (Nat.not_le.2 he), hkept, MachineStep.still]
    case easingClears =>
      rw [evalMachine_of_easing _ _ _ _ _ hm, if_pos hev, if_pos hfull, if_pos he, hkept, clearBreach, ExceedanceMachine.initial]

end Sys2Proof.Stated
end

section

/-! ### What each machine is judged against, and the demand computation (R111, R114, R115, R117, R140, R141) -/

namespace Sys2Proof.Stated

open Sys2Proof.Machine

theorem feedLimits_of_pooled {k : Contract} (h : k.window.cls = .pooled) (al : Allowance) :
    feedLimits k al = [{ scope := .pooled, limit := k.limits.capacity1 }] := by
  simp only [feedLimits, h]

/-- With no allowance each feed has its own capacity; a covered feed is not evaluated and the other takes both; with both down none is. -/
theorem feedLimits_of_perFeed {k : Contract} (h : k.window.cls = .perFeed) :
    feedLimits k .off = [{ scope := .feedA, limit := k.limits.capacity1 }, { scope := .feedB, limit := k.limits.capacity2 }] ∧
      feedLimits k (.covers .a) = [{ scope := .feedB, limit := k.limits.capacity1 + k.limits.capacity2 }] ∧
      feedLimits k (.covers .b) = [{ scope := .feedA, limit := k.limits.capacity1 + k.limits.capacity2 }] ∧ feedLimits k .both = [] := by
  simp only [feedLimits, h, and_self]

/-- A burst percentage of 100 or more never puts the ceiling below the limit. -/
theorem le_burstCeiling {b : Nat} (hb : 100 ≤ b) (limit : Nat) : limit ≤ burstCeiling b limit :=
  (Nat.le_div_iff_mul_le (by decide)).2 (Nat.mul_le_mul_left limit hb)

section Demand

variable (k : Contract) (x : IntervalTotal) (fs : List FeedLimit) (used : List RingEntry) (s : State)

/-- What a demand computation writes in the tenant's record, whatever the state of the tenant. -/
def demandWritten : State :=
  s.setTenant x.tenant
    { s.tenant x.tenant with
      lastDemand := some (computeDemand k.window s.ct.config.il x.period used)
      peak := some (updatePeak (s.tenant x.tenant).peak (computeDemand k.window s.ct.config.il x.period used)) }

/-- For an ACTIVE tenant the DEMAND machine is evaluated once the demand is written. -/
theorem demandComputation_active :
    demandComputation true k x fs used s =
      evaluate k.limits x.tenant .demand x.period (!used.any RingEntry.incomplete)
        (classify (demandJudged k (computeDemand k.window s.ct.config.il x.period used) fs)) (demandWritten k x used s) := rfl

/-- For a HELD or CLOSING tenant nothing is evaluated. -/
theorem demandComputation_passive : demandComputation false k x fs used s = (demandWritten k x used s, []) := rfl

end Demand

/-- Settles O34: the limits by class and allowance, the ceiling and the exits by their formulas, and the demand computation for an ACTIVE
tenant and for any other. -/
theorem burstCeilingAndExit : Obligations.BurstCeilingAndExit := by
  refine ⟨fun k al => ⟨fun h => feedLimits_of_pooled h al, feedLimits_of_perFeed⟩, fun _ _ _ => rfl, fun _ _ _ => rfl,
    fun _ limit hb => le_burstCeiling hb limit, by decide, by decide, fun _ _ _ _ => rfl, ?demand⟩
  rintro k x fs used s d rfl
  exact ⟨demandComputation_active k x fs used s, demandComputation_passive k x fs used s⟩

end Sys2Proof.Stated
end

section

/-! ### The bucket and the demand ring (R106 to R109) -/

namespace Sys2Proof.Stated

open Sys2Proof.Machine

/-! ### What the demand computation leaves of a record -/

@[simp] theorem bucket_setMachine (r : Tenant) (kind : MachineKind) (m : ExceedanceMachine) : (r.setMachine kind m).bucket = r.bucket := by
  cases kind <;> rfl

@[simp] theorem ring_setMachine (r : Tenant) (kind : MachineKind) (m : ExceedanceMachine) : (r.setMachine kind m).ring = r.ring := by
  cases kind <;> rfl

@[simp] theorem latchMove_tenant (t : Nat) (kind : MachineKind) (m : Option Move) (s : State) (n : Nat) :
    (latchMove t kind m s).tenant n = s.tenant n := by
  unfold latchMove
  split <;> simp

/-- An evaluation writes one machine and the breach log of the tenant's record. -/
theorem evaluate_tenant_same (k : LimitFields) (t : Nat) (kind : MachineKind) (c : Period) (complete : Bool) (ev : Option Evaluation)
    (s : State) :
    ∃ m log, (evaluate k t kind c complete ev s).1.tenant t = { (s.tenant t).setMachine kind m with breachLog := log } := by
  cases ev with
  | none => exact ⟨(s.tenant t).machine kind, (s.tenant t).breachLog, by cases kind <;> rfl⟩
  | some ev => exact ⟨_, _, (latchMove_tenant t kind _ _ t).trans (State.tenant_setTenant_same s t _)⟩

/-- A demand computation leaves the bucket and the ring it was made from. -/
theorem demandComputation_keeps_bucket_ring (active : Bool) (k : Contract) (x : IntervalTotal) (fs : List FeedLimit) (used : List RingEntry)
    (s : State) :
    ((demandComputation active k x fs used s).1.tenant x.tenant).bucket = (s.tenant x.tenant).bucket ∧
      ((demandComputation active k x fs used s).1.tenant x.tenant).ring = (s.tenant x.tenant).ring := by
  cases active with
  | false => simp [demandComputation_passive, demandWritten]
  | true =>
    obtain ⟨m, log, heval⟩ := evaluate_tenant_same k.limits x.tenant .demand x.period (!used.any RingEntry.incomplete)
      (classify (demandJudged k (computeDemand k.window s.ct.config.il x.period used) fs)) (demandWritten k x used s)
    rw [demandComputation_active, heval]
    simp [demandWritten]

/-! ### Step 5 of a settle -/

/-- The bucket after the total of the settle has entered it, as the statement writes it (R106, R141). -/
theorem fillBucket_eq (r : Tenant) (x : IntervalTotal) (both : Bool) :
    fillBucket r x both =
      { energyA := min 281474976710655 (r.bucket.energyA + x.energyA), energyB := min 281474976710655 (r.bucket.energyB + x.energyB)
        count := r.bucket.count + 1
        incomplete := r.bucket.incomplete || x.incomplete || discontinuous r.lastSettled x.period || both } := rfl

section BucketStep

variable {active both : Bool} {k : Contract} {x : IntervalTotal} {fs : List FeedLimit} {s : State}

/-- The ring after the bucket of this settle has closed into it, and the entries it then yields. -/
def ringStep (both : Bool) (k : Contract) (x : IntervalTotal) (r : Tenant) : List RingEntry × Option (List RingEntry) :=
  placeEntry k.window r.ring ((fillBucket r x both).entry x.period)

/-- The state once the bucket of this settle has closed into the ring. -/
def bucketClosed (both : Bool) (k : Contract) (x : IntervalTotal) (s : State) : State :=
  s.setTenant x.tenant { s.tenant x.tenant with bucket := Bucket.initial, ring := (ringStep both k x (s.tenant x.tenant)).1 }

theorem bucketStep_of_held (h : (fillBucket (s.tenant x.tenant) x both).count ≠ k.window.bucketLength) :
    bucketStep active both k x fs s =
      (s.setTenant x.tenant { s.tenant x.tenant with bucket := fillBucket (s.tenant x.tenant) x both }, []) :=
  if_neg h

section Closed

variable (h : (fillBucket (s.tenant x.tenant) x both).count = k.window.bucketLength)
include h

theorem bucketStep_of_closed_none (hnone : (ringStep both k x (s.tenant x.tenant)).2 = none) :
    bucketStep active both k x fs s = (bucketClosed both k x s, []) := by
  rw [ringStep] at hnone
  simp only [bucketStep, if_pos h, hnone]
  rfl

theorem bucketStep_of_closed_some {used : List RingEntry} (hsome : (ringStep both k x (s.tenant x.tenant)).2 = some used) :
    bucketStep active both k x fs s = demandComputation active k x fs used (bucketClosed both k x s) := by
  rw [ringStep] at hsome
  simp only [bucketStep, if_pos h, hsome]
  rfl

/-- Whether or not a demand is computed, the closed bucket is emptied and the ring keeps what the window mode leaves in it. -/
theorem bucket_ring_bucketStep_of_closed :
    ((bucketStep active both k x fs s).1.tenant x.tenant).bucket = Bucket.initial ∧
      ((bucketStep active both k x fs s).1.tenant x.tenant).ring = (ringStep both k x (s.tenant x.tenant)).1 := by
  have hclosed : (bucketClosed both k x s).tenant x.tenant =
      { s.tenant x.tenant with bucket := Bucket.initial, ring := (ringStep both k x (s.tenant x.tenant)).1 } :=
    State.tenant_setTenant_same s x.tenant _
  cases hyield : (ringStep both k x (s.tenant x.tenant)).2 with
  | none => simp only [bucketStep_of_closed_none h hyield, hclosed, and_self]
  | some used =>
    rw [bucketStep_of_closed_some h hyield]
    simpa only [hclosed] using demandComputation_keeps_bucket_ring active k x fs used (bucketClosed both k x s)

end Closed

end BucketStep

/-- A write of one tenant record changes that record alone. -/
theorem oneTenant_setTenant (s : State) (n : Nat) (r : Tenant) : OneTenant n r s (s.setTenant n r) :=
  ⟨rfl, State.tenant_setTenant_same s n r, fun _ hm => State.tenant_setTenant_other s r hm.symm⟩

/-! ### The window modes (R108, R109) -/

section Ring

variable {w : WindowFields} {ring : List RingEntry} {e : RingEntry}

/-- A ring that the entry does not fill yields nothing, in either mode. -/
theorem placeEntry_of_room (h : ring.length + 1 < w.buckets) : placeEntry w ring e = (ring ++ [e], none) := by
  have hroom : ring.length < w.buckets := Nat.lt_of_succ_lt h
  have hnot : (ring ++ [e]).length ≠ w.buckets := by
    rw [List.length_append]
    exact Nat.ne_of_lt h
  cases hmode : w.mode <;> simp only [placeEntry, hmode, if_pos hroom, if_neg hnot]

/-- The entry that fills a ROLLING ring stays with the others, and all are yielded. -/
theorem placeEntry_rolling_of_fills (hmode : w.mode = .rolling) (h : ring.length + 1 = w.buckets) :
    placeEntry w ring e = (ring ++ [e], some (ring ++ [e])) := by
  have hroom : ring.length < w.buckets := Nat.lt_of_succ_le (Nat.le_of_eq h)
  have hfull : (ring ++ [e]).length = w.buckets := List.length_append.trans h
  simp only [placeEntry, hmode, if_pos hroom, if_pos hfull]

theorem length_tail_append_singleton (hpos : 1 ≤ ring.length) : (ring.tail ++ [e]).length = ring.length := by
  simp only [List.length_append, List.length_tail, List.length_singleton, Nat.sub_add_cancel hpos]

/-- In a full ROLLING ring the entry takes the place of the oldest one. -/
theorem placeEntry_rolling_of_full (hmode : w.mode = .rolling) (hpos : 1 ≤ w.buckets) (h : ring.length = w.buckets) :
    placeEntry w ring e = (ring.tail ++ [e], some (ring.tail ++ [e])) := by
  have hroom : ¬ ring.length < w.buckets := Nat.not_lt.2 (Nat.le_of_eq h.symm)
  have hfull : (ring.tail ++ [e]).length = w.buckets := (length_tail_append_singleton (h ▸ hpos)).trans h
  simp only [placeEntry, hmode, if_neg hroom, List.drop_one, if_pos hfull]

/-- The entry that fills a BLOCK ring empties it. -/
theorem placeEntry_block_of_fills (hmode : w.mode = .block) (h : ring.length + 1 = w.buckets) :
    placeEntry w ring e = ([], some (ring ++ [e])) := by
  have hfull : (ring ++ [e]).length = w.buckets := List.length_append.trans h
  simp only [placeEntry, hmode, if_pos hfull]

/-- The ring's bounds are kept: at most B entries, and below B in BLOCK mode. -/
theorem placeEntry_keeps_bounds (hpos : 1 ≤ w.buckets) (hle : ring.length ≤ w.buckets) (hlt : w.mode = .block → ring.length < w.buckets) :
    (placeEntry w ring e).1.length ≤ w.buckets ∧ (w.mode = .block → (placeEntry w ring e).1.length < w.buckets) := by
  have hsnoc : (ring ++ [e]).length = ring.length + 1 := List.length_append
  rcases Nat.lt_trichotomy (ring.length + 1) w.buckets with hroom | hfills | hfull
  · rw [placeEntry_of_room hroom, hsnoc]
    exact ⟨hroom.le, fun _ => hroom⟩
  · cases hmode : w.mode with
    | rolling =>
      rw [placeEntry_rolling_of_fills hmode hfills, hsnoc]
      exact ⟨hfills.le, nofun⟩
    | block =>
      rw [placeEntry_block_of_fills hmode hfills]
      exact ⟨Nat.zero_le _, fun _ => hpos⟩
  · have heq : ring.length = w.buckets := Nat.le_antisymm hle (Nat.le_of_lt_succ hfull)
    have hrolling : w.mode = .rolling := by
      cases hmode : w.mode with
      | rolling => rfl
      | block => exact absurd heq (Nat.ne_of_lt (hlt hmode))
    rw [placeEntry_rolling_of_full hrolling hpos heq, length_tail_append_singleton (heq ▸ hpos), hrolling]
    exact ⟨hle, nofun⟩

end Ring

/-- Settles O32: the bucket is closed or held by its count, the ring's yield decides whether a demand is computed, and the entry is placed by
the room it finds and the window mode. -/
theorem bucketsEnterTheDemandRing : Obligations.BucketsEnterTheDemandRing := by
  refine ⟨?step, fun w ring e hpos hle hlt => ?placed⟩
  case step =>
    rintro active both k x fs s r b rfl hb
    obtain rfl : b = fillBucket (s.tenant x.tenant) x both := hb.trans (fillBucket_eq _ x both).symm
    refine ⟨fun hcount => ?closed, bucketStep_of_held⟩
    case closed =>
      obtain ⟨hbucket, hring⟩ := bucket_ring_bucketStep_of_closed (active := active) (fs := fs) hcount
      refine ⟨hbucket, hring, ?yield⟩
      case yield =>
        rintro p hp
        obtain rfl : p = ringStep both k x (s.tenant x.tenant) := hp
        refine ⟨bucketClosed both k x s, oneTenant_setTenant s x.tenant _, ?_⟩
        cases hyield : (ringStep both k x (s.tenant x.tenant)).2 with
        | none => exact bucketStep_of_closed_none hcount hyield
        | some used => exact bucketStep_of_closed_some hcount hyield
  case placed =>
    exact ⟨placeEntry_of_room, placeEntry_rolling_of_fills, fun hmode => placeEntry_rolling_of_full hmode hpos, placeEntry_block_of_fills,
      placeEntry_keeps_bounds hpos hle hlt⟩

end Sys2Proof.Stated
end

section

/-! ### FM: the verdict of a tally, the move of a feed and its causes (R131 to R135) -/

namespace Sys2Proof.Stated

open Sys2Proof.Machine

/-! ### The verdicts (R132) -/

section Verdict

variable {frames absent : Nat}

theorem feedVerdict_of_most_absent (h : frames < 2 * absent) (hpos : 0 < frames) : feedVerdict frames absent = .majorityAbsent := by
  rw [feedVerdict, if_neg hpos.ne', if_pos h]

/-- The absent frames and the present ones of one tally cannot both be more than half. -/
theorem feedVerdict_of_most_present (h : frames < 2 * (frames - absent)) (hle : absent ≤ frames) :
    feedVerdict frames absent = .majorityPresent := by
  have hsome : frames ≠ 0 := by omega
  have hfew : ¬ frames < 2 * absent := by omega
  rw [feedVerdict, if_neg hsome, if_neg hfew, if_pos h]

theorem feedVerdict_of_no_majority (habsent : ¬ frames < 2 * absent) (hpresent : ¬ frames < 2 * (frames - absent)) :
    feedVerdict frames absent = .neither := by
  rw [feedVerdict, if_neg habsent, if_neg hpresent, ite_self]

end Verdict

/-! ### The move of one feed (R133, R134, R135) -/

section Judge

variable (r : Nat) {w : FeedWatch}

/-- A PRESENT feed is moved by a majority absent alone, to LOST (R133). -/
theorem judgeFeed_of_present (h : w.state = .present) (v : Verdict) :
    judgeFeed r w v = if v = .majorityAbsent then { state := .lost, count := 0 } else w := by
  cases v <;> simp only [judgeFeed, h, reduceCtorEq, if_true, if_false]

/-- A LOST feed is moved by a majority present alone, to RETURNING (R134). -/
theorem judgeFeed_of_lost (h : w.state = .lost) (v : Verdict) :
    judgeFeed r w v = if v = .majorityPresent then { state := .returning, count := 0 } else w := by
  cases v <;> simp only [judgeFeed, h, reduceCtorEq, if_true, if_false]

/-- A majority absent sends a RETURNING feed back to LOST (R135). -/
theorem judgeFeed_of_returning_absent (h : w.state = .returning) : judgeFeed r w .majorityAbsent = { state := .lost, count := 0 } := by
  simp only [judgeFeed, h]

/-- A majority present counts for a RETURNING feed, and the restore count makes it PRESENT (R135). -/
theorem judgeFeed_of_returning_present (h : w.state = .returning) :
    judgeFeed r w .majorityPresent =
      if r ≤ w.count + 1 then { state := .present, count := 0 } else { state := .returning, count := w.count + 1 } := by
  simp only [judgeFeed, h]

end Judge

/-! ### What a latch does to the latched causes (R164) -/

theorem getLsbD_causeBit {i : Nat} (hi : i < 16) (j : Nat) : (causeBit i).getLsbD j = decide (j = i) := by
  rw [causeBit, BitVec.getLsbD_shiftLeft, BitVec.getLsbD_one, Bool.eq_iff_iff]
  simp only [Bool.and_eq_true, Bool.not_eq_true', decide_eq_true_iff, decide_eq_false_iff_not]
  omega

/-- A cause is latched after a latch exactly when it was before or is the one latched. -/
theorem getLsbD_latch {i : Nat} (hi : i < 16) (c : CauseSet) (j : Nat) :
    (c.latch i).latched.getLsbD j = true ↔ c.latched.getLsbD j = true ∨ j = i := by
  unfold CauseSet.latch
  split
  case isTrue hold =>
    refine ⟨.inl, ?_⟩
    rintro (h | rfl)
    · exact h
    · exact hold
  case isFalse => rw [BitVec.getLsbD_or, getLsbD_causeBit hi, Bool.or_eq_true, decide_eq_true_iff]

theorem unitCause_bit_lt (c : UnitCause) : c.bit < 16 := by cases c <;> decide

theorem getLsbD_latchUnit (c : UnitCause) (s : State) (j : Nat) :
    (latchUnit c s).nu.unit.latched.getLsbD j = true ↔ s.nu.unit.latched.getLsbD j = true ∨ j = c.bit :=
  getLsbD_latch (unitCause_bit_lt c) s.nu.unit j

/-! ### The causes of a feed's move (R133, R135) -/

section Causes

variable (before after : FeedWatch) (s : State)

theorem feedMoved_eq : feedMoved before after s = feedCauses before after s := rfl

/-- The causes of a move are written in NU alone. -/
theorem feedCauses_writes_nu : feedCauses before after s = { s with nu := (feedCauses before after s).nu } := by
  unfold feedCauses
  split_ifs <;> rfl

@[simp] theorem feedCauses_fm : (feedCauses before after s).fm = s.fm := by rw [feedCauses_writes_nu]

/-- What NU becomes depends on the move and on NU alone. -/
theorem feedCauses_nu_of_nu_eq {s t : State} (h : s.nu = t.nu) : (feedCauses before after s).nu = (feedCauses before after t).nu := by
  unfold feedCauses
  split_ifs
  · rw [latchUnit, latchUnit, State.onNu_nu, State.onNu_nu, h]
  · rw [latchUnit, latchUnit, State.onNu_nu, State.onNu_nu, h]
  · exact h

/-- A move joins FEED_LOST from PRESENT to LOST and FEED_RESTORED from RETURNING to PRESENT, and no other cause at any move. -/
theorem getLsbD_feedCauses (j : Nat) :
    (feedCauses before after s).nu.unit.latched.getLsbD j = true ↔
      s.nu.unit.latched.getLsbD j = true ∨ (before.state = .present ∧ after.state = .lost) ∧ j = UnitCause.feedLost.bit ∨
        (before.state = .returning ∧ after.state = .present) ∧ j = UnitCause.feedRestored.bit := by
  unfold feedCauses
  split_ifs with hlost hback
  · simp [getLsbD_latchUnit, hlost]
  · simp [getLsbD_latchUnit, hback]
  · simp [hlost, hback]

end Causes

/-! ### FM's judgment of a tally (R131) -/

section Tally

variable (t : FeedTally) (s : State)

/-- Each feed is moved by its own verdict. -/
theorem judgeTally_fm :
    (judgeTally t s).fm =
      { a := judgeFeed s.ct.config.restoreCount s.fm.a (feedVerdict t.frames t.absentA)
        b := judgeFeed s.ct.config.restoreCount s.fm.b (feedVerdict t.frames t.absentB) } := by
  simp only [judgeTally, feedCauses_fm, State.onFm_fm]

theorem judgeTally_writes_fm_nu : judgeTally t s = { s with fm := (judgeTally t s).fm, nu := (judgeTally t s).nu } := by
  rw [judgeTally_fm, judgeTally, feedCauses_writes_nu, feedCauses_writes_nu s.fm.a]
  rfl

/-- NU takes the causes of feed A's move and then those of feed B's. -/
theorem judgeTally_nu :
    (judgeTally t s).nu = (feedCauses s.fm.b (judgeTally t s).fm.b (feedCauses s.fm.a (judgeTally t s).fm.a s)).nu := by
  rw [judgeTally_fm]
  exact feedCauses_nu_of_nu_eq _ _ (feedCauses_nu_of_nu_eq _ _ rfl)

/-- FEED_LOST is latched after a judgment exactly when it was before or a feed went from PRESENT to LOST. -/
theorem feedLost_latched_judgeTally :
    (judgeTally t s).nu.unit.latched.getLsbD 1 = true ↔
      s.nu.unit.latched.getLsbD 1 = true ∨ (s.fm.a.state = .present ∧ (judgeTally t s).fm.a.state = .lost) ∨
        (s.fm.b.state = .present ∧ (judgeTally t s).fm.b.state = .lost) := by
  rw [judgeTally_nu, getLsbD_feedCauses, getLsbD_feedCauses]
  simp [UnitCause.bit, or_assoc]

/-- FEED_RESTORED is latched after a judgment exactly when it was before or a feed went from RETURNING to PRESENT. -/
theorem feedRestored_latched_judgeTally :
    (judgeTally t s).nu.unit.latched.getLsbD 5 = true ↔
      s.nu.unit.latched.getLsbD 5 = true ∨ (s.fm.a.state = .returning ∧ (judgeTally t s).fm.a.state = .present) ∨
        (s.fm.b.state = .returning ∧ (judgeTally t s).fm.b.state = .present) := by
  rw [judgeTally_nu, getLsbD_feedCauses, getLsbD_feedCauses]
  simp [UnitCause.bit, or_assoc]

end Tally

/-- Settles O37: the verdict of a tally by the majority, one equation for each state of a feed, and the two causes by what each feed's move adds
to NU. -/
theorem feedStatesFollowTheVerdicts : Obligations.FeedStatesFollowTheVerdicts := by
  refine ⟨fun _ _ => feedVerdict_of_most_absent, fun _ _ => feedVerdict_of_most_present, fun _ _ _ => feedVerdict_of_no_majority,
    rfl, fun r w => ?moves, ?tally⟩
  case moves =>
    refine ⟨fun h => ?presentAbsent, fun h => ?presentPresent, fun h => ?lostPresent, fun h => ?lostAbsent,
      judgeFeed_of_returning_absent r, fun h hr => ?returns, fun h hr => ?counts, rfl⟩
    case presentAbsent => rw [judgeFeed_of_present r h, if_pos rfl]
    case presentPresent => rw [judgeFeed_of_present r h, if_neg (by decide)]
    case lostPresent => rw [judgeFeed_of_lost r h, if_pos rfl]
    case lostAbsent => rw [judgeFeed_of_lost r h, if_neg (by decide)]
    case returns => rw [judgeFeed_of_returning_present r h, if_pos hr]
    case counts => rw [judgeFeed_of_returning_present r h, if_neg (Nat.not_le.2 hr)]
  case tally =>
    rintro t s u rfl
    have hlost := feedLost_latched_judgeTally t s
    have hrestored := feedRestored_latched_judgeTally t s
    refine ⟨judgeTally_writes_fm_nu t s, congrArg FeedMonitor.a (judgeTally_fm t s), congrArg FeedMonitor.b (judgeTally_fm t s),
      fun hp hl => hlost.2 (.inr (.inl ⟨hp, hl⟩)), fun hp hl => hlost.2 (.inr (.inr ⟨hp, hl⟩)),
      fun hr hp => hrestored.2 (.inr (.inl ⟨hr, hp⟩)), fun hr hp => hrestored.2 (.inr (.inr ⟨hr, hp⟩)), fun ha hb => ?noOtherCause, ?nu⟩
    case noOtherCause => rw [Bool.eq_iff_iff, hlost, or_iff_left (not_or.2 ⟨ha, hb⟩)]
    case nu =>
      rw [feedMoved_eq, feedMoved_eq]
      exact judgeTally_nu t s

end Sys2Proof.Stated
end

section
/-! The place of a source in the Notice Queue judged anew, what an acknowledgement makes of a cause set and of NU, what NU answers to
ACK-NOTICE and SET-NOTICE-MASK check by check, and the statement about these two orders. -/

namespace Sys2Proof.Stated

open Sys2Proof.Machine

/-! ### A source's place in the Notice Queue (R166, R173 step 3) -/

section Place

variable (n : Nat) (c d : CauseSet) (q : List Nat)

theorem requeue_eq_requeued : requeue n c q = requeued n c q := by
  by_cases hclear : c.unreported &&& c.mask = 0
  · rw [requeued, if_pos hclear, requeue, if_neg (by simpa [CauseSet.owed] using hclear)]
    exact List.filter_congr fun x _ => by simp [bne, beq_eq_decide]
  · rw [requeued, if_neg hclear, requeue, if_pos (by simpa [CauseSet.owed] using hclear)]
    rfl

/-- Whether the source was put at the newest end just before does not matter when its place is judged. -/
theorem requeue_enqueue : requeue n c (enqueue n q) = requeue n c q := by
  by_cases hmem : n ∈ q
  · rw [enqueue, if_pos hmem]
  · have hjoined : enqueue n q = q ++ [n] := if_neg hmem
    rw [hjoined]
    unfold requeue
    split
    case isTrue => rw [hjoined, enqueue, if_pos (by simp)]
    case isFalse => simp

theorem requeue_queueAfterLatch (i : Nat) : requeue n c (queueAfterLatch n d i q) = requeue n c q := by
  unfold queueAfterLatch
  split_ifs
  · rfl
  · exact requeue_enqueue n c q
  · rfl

end Place

/-! ### Several causes latched on one set (R164) -/

section Latches

variable {α : Type} (bit : α → Nat)

/-- The set of the causes in a list. -/
def causeBits (xs : List α) : BitVec 16 := xs.foldr (fun x b => causeBit (bit x) ||| b) 0

/-- The causes of `again` joined to both parts. -/
def joined (c : CauseSet) (again : BitVec 16) : CauseSet :=
  { c with latched := c.latched ||| again, unreported := c.unreported ||| again }

theorem joined_joined (c : CauseSet) (a b : BitVec 16) : joined (joined c a) b = joined c (a ||| b) := by
  simp only [joined, BitVec.or_assoc]

theorem acknowledged_eq_joined (c : CauseSet) (causes again : BitVec 16) : acknowledged c causes again = joined (c.remove causes) again :=
  rfl

theorem or_causeBit_of_getLsbD {b : BitVec 16} {i : Nat} (h : b.getLsbD i = true) : b ||| causeBit i = b := by
  refine BitVec.eq_of_getLsbD_eq fun j _ => ?_
  rw [BitVec.getLsbD_or, getLsbD_causeBit (BitVec.lt_of_getLsbD h)]
  by_cases hj : j = i
  · rw [hj, h, Bool.true_or]
  · rw [decide_eq_false hj, Bool.or_false]

/-- A cause that is unreported if it is latched joins both parts, whether it is latched or not. -/
theorem latch_eq_joined {c : CauseSet} {i : Nat} (h : c.latched.getLsbD i = true → c.unreported.getLsbD i = true) :
    c.latch i = joined c (causeBit i) := by
  unfold CauseSet.latch
  split
  case isTrue hold => rw [joined, or_causeBit_of_getLsbD hold, or_causeBit_of_getLsbD (h hold)]
  case isFalse => rfl

theorem foldl_latch_eq_joined (xs : List α) (c : CauseSet)
    (h : ∀ x ∈ xs, c.latched.getLsbD (bit x) = true → c.unreported.getLsbD (bit x) = true) :
    xs.foldl (fun c x => c.latch (bit x)) c = joined c (causeBits bit xs) := by
  induction xs generalizing c with
  | nil => simp [joined, causeBits]
  | cons x xs ih =>
    have hrest : ∀ y ∈ xs, (joined c (causeBit (bit x))).latched.getLsbD (bit y) = true →
        (joined c (causeBit (bit x))).unreported.getLsbD (bit y) = true := by
      intro y hy
      simp only [joined, BitVec.getLsbD_or, Bool.or_eq_true]
      exact Or.imp_left (h y (List.mem_cons_of_mem x hy))
    calc (x :: xs).foldl (fun c x => c.latch (bit x)) c
        = xs.foldl (fun c x => c.latch (bit x)) (joined c (causeBit (bit x))) := by
          rw [List.foldl_cons, latch_eq_joined (h x List.mem_cons_self)]
      _ = joined c (causeBit (bit x) ||| causeBits bit xs) := by rw [ih _ hrest, joined_joined]

/-- Removed causes latched again: a removed cause is in neither part, so each one joins both. -/
theorem foldl_latch_remove (xs : List α) (c : CauseSet) {causes : BitVec 16} (h : ∀ x ∈ xs, causes.getLsbD (bit x) = true) :
    xs.foldl (fun c x => c.latch (bit x)) (c.remove causes) = acknowledged c causes (causeBits bit xs) := by
  rw [acknowledged_eq_joined]
  refine foldl_latch_eq_joined bit xs _ fun x hx hold => ?_
  simp [CauseSet.remove, h x hx] at hold

theorem causeBits_filter_cons (p : α → Bool) (x : α) (xs : List α) :
    causeBits bit ((x :: xs).filter p) = (if p x then causeBit (bit x) else 0) ||| causeBits bit (xs.filter p) := by
  rw [List.filter_cons]
  split
  · rfl
  · exact (BitVec.zero_or).symm

end Latches

/-! ### The causes latched again by an acknowledgement (R165, R173 step 2) -/

section Again

variable (n : Nat) (causes : BitVec 16) (s : State)

/-- The unit's condition causes that are named and whose condition holds. -/
def unitAgain : List UnitCause := unitConditionCauses.filter fun c => causes.getLsbD c.bit && s.unitCondition c

/-- A tenant's condition causes that are named and whose condition holds. -/
def tenantAgain : List TenantCause := tenantConditionCauses.filter fun c => causes.getLsbD c.bit && s.tenantCondition n c

theorem causeBits_unitAgain : causeBits UnitCause.bit (unitAgain causes s) = unitRelatched causes s := by
  simp only [unitAgain, unitConditionCauses, causeBits_filter_cons, ← BitVec.or_assoc]
  exact BitVec.or_zero

theorem causeBits_tenantAgain : causeBits TenantCause.bit (tenantAgain n causes s) = tenantRelatched n causes s := by
  simp only [tenantAgain, tenantConditionCauses, causeBits_filter_cons, ← BitVec.or_assoc]
  exact BitVec.or_zero

theorem named_of_mem_unitAgain {causes : BitVec 16} {s : State} {c : UnitCause} (h : c ∈ unitAgain causes s) :
    causes.getLsbD c.bit = true :=
  (Bool.and_eq_true_iff.1 (List.mem_filter.1 h).2).1

theorem named_of_mem_tenantAgain {n : Nat} {causes : BitVec 16} {s : State} {c : TenantCause} (h : c ∈ tenantAgain n causes s) :
    causes.getLsbD c.bit = true :=
  (Bool.and_eq_true_iff.1 (List.mem_filter.1 h).2).1

end Again

/-! ### The unit's set replaced (R173, R175) -/

/-- The unit's cause set replaced and the unit's place in the queue judged anew. -/
def withUnitSet (c : CauseSet) (s : State) : State := { s with nu := { s.nu with unit := c, queue := requeue 0 c s.nu.queue } }

theorem withUnitSet_eq (c : CauseSet) (s : State) :
    withUnitSet c s = { s with nu := { s.nu with unit := c, queue := requeued 0 c s.nu.queue } } := by
  rw [withUnitSet, requeue_eq_requeued]

theorem setUnitMask_eq (mask : BitVec 16) (s : State) : setUnitMask mask s = withUnitSet { s.nu.unit with mask := mask } s := rfl

/-- What the latches do to the queue is overruled when the unit's place is judged. -/
theorem withUnitSet_latchUnit (c : CauseSet) (x : UnitCause) (s : State) : withUnitSet c (latchUnit x s) = withUnitSet c s := by
  simp only [withUnitSet, latchUnit, State.onNu, requeue_queueAfterLatch]

theorem foldl_latchUnit_judged (xs : List UnitCause) (s : State) :
    ((xs.foldl (fun st c => latchUnit c st) s).onNu fun m => { m with queue := requeue 0 m.unit m.queue }) =
      withUnitSet (xs.foldl (fun c x => c.latch x.bit) s.nu.unit) s := by
  induction xs generalizing s with
  | nil => rfl
  | cons x xs ih => rw [List.foldl_cons, ih, withUnitSet_latchUnit]; rfl

theorem ackUnit_eq (causes : BitVec 16) (s : State) :
    ackUnit causes s = withUnitSet (acknowledged s.nu.unit causes (unitRelatched causes s)) s := by
  rw [← causeBits_unitAgain, ← foldl_latch_remove _ _ _ fun _ => named_of_mem_unitAgain]
  exact foldl_latchUnit_judged (unitAgain causes s) (s.onNu fun m => { m with unit := m.unit.remove causes })

/-! ### A tenant's set written (R164, R173) -/

theorem causes_setCauses_other (s : State) {k j : Nat} (v : CauseSet) (h : j ≠ k) : (s.setCauses k v).causes j = s.causes j :=
  tableGet_tableSet_other CauseSet.initial s.nu.tenants v h.symm

/-- Of `s`, only the cause set of tenant `n`, now `c`, and the tenant's place in the Notice Queue are written in `t`. -/
structure SourceWritten (n : Nat) (c : CauseSet) (s t : State) : Prop where
  frame : t = { s with nu := t.nu }
  unit : t.nu.unit = s.nu.unit
  same : t.causes n = c
  others : ∀ m, m ≠ n → t.causes m = s.causes m
  place : ∀ d, requeue n d t.nu.queue = requeue n d s.nu.queue

namespace SourceWritten

variable {n : Nat} {c d : CauseSet} {s t u : State}

theorem refl (n : Nat) (s : State) : SourceWritten n (s.causes n) s s := ⟨rfl, rfl, rfl, fun _ _ => rfl, fun _ => rfl⟩

theorem trans (h : SourceWritten n c s t) (g : SourceWritten n d t u) : SourceWritten n d s u where
  frame := by rw [g.frame, h.frame]
  unit := g.unit.trans h.unit
  same := g.same
  others m hm := (g.others m hm).trans (h.others m hm)
  place e := (g.place e).trans (h.place e)

theorem tenant_eq (h : SourceWritten n c s t) (m : Nat) : t.tenant m = s.tenant m := by rw [h.frame]; rfl

theorem setCauses (n : Nat) (c : CauseSet) (s : State) : SourceWritten n c s (s.setCauses n c) :=
  ⟨rfl, rfl, s.causes_setCauses_same n c, fun _ => causes_setCauses_other s c, fun _ => rfl⟩

theorem latchTenant (x : TenantCause) (hstate : (s.tenant n).state ≠ .vacant) :
    SourceWritten n ((s.causes n).latch x.bit) s (latchTenant x n s) := by
  rw [Machine.latchTenant, if_neg hstate]
  have h := setCauses n ((s.causes n).latch x.bit) s
  exact { h with frame := rfl, place := fun d => requeue_queueAfterLatch n d (s.causes n) s.nu.queue x.bit }

theorem foldl_latchTenant (xs : List TenantCause) (hstate : (s.tenant n).state ≠ .vacant) :
    SourceWritten n (xs.foldl (fun c x => c.latch x.bit) (s.causes n)) s (xs.foldl (fun st c => Machine.latchTenant c n st) s) := by
  induction xs generalizing s with
  | nil => exact refl n s
  | cons x xs ih =>
    have hx := latchTenant x hstate
    have hxs := ih (s := Machine.latchTenant x n s) (by rwa [hx.tenant_eq])
    rw [hx.same] at hxs
    exact hx.trans hxs

end SourceWritten

/-- An acknowledgement for a tenant that is not VACANT: its set, the other sources, and its place in the queue. -/
theorem ackTenant_spec {n : Nat} {causes : BitVec 16} {s : State} {c : CauseSet} (hstate : (s.tenant n).state ≠ .vacant)
    (hc : c = acknowledged (s.causes n) causes (tenantRelatched n causes s)) :
    ackTenant n causes s = { s with nu := (ackTenant n causes s).nu } ∧ (ackTenant n causes s).nu.unit = s.nu.unit ∧
      (ackTenant n causes s).causes n = c ∧ (∀ m, m ≠ n → (ackTenant n causes s).causes m = s.causes m) ∧
      (ackTenant n causes s).nu.queue = requeued n c s.nu.queue := by
  have hremoved := SourceWritten.setCauses n ((s.causes n).remove causes) s
  have hlatched := SourceWritten.foldl_latchTenant (tenantAgain n causes s) (n := n) (by rwa [hremoved.tenant_eq])
  rw [hremoved.same, foldl_latch_remove _ _ _ fun _ => named_of_mem_tenantAgain, causeBits_tenantAgain, ← hc] at hlatched
  obtain ⟨frame, unit, same, others, place⟩ := hremoved.trans hlatched
  refine ⟨congrArg (fun r : State => { r with nu := (ackTenant n causes s).nu }) frame, unit, same, others, ?queue⟩
  rw [← requeue_eq_requeued, ← place c, ← same]
  rfl

/-! ### What NU answers (R172, R173, R175) -/

theorem namesOnly_unit_iff (causes : BitVec 16) : namesOnly allUnitCauses causes = true ↔ causes &&& 0xFC00 = 0 := decide_eq_true_iff

theorem namesOnly_tenant_iff (causes : BitVec 16) : namesOnly allTenantCauses causes = true ↔ causes &&& 0xF800 = 0 := decide_eq_true_iff

section AckNotice

variable {src : Nat} {causes : BitVec 16} {s : State}

theorem ownAckNotice_of_out_of_range (h : 127 < src ∨ src = 0 ∧ causes &&& 0xFC00 ≠ 0 ∨ src ≠ 0 ∧ causes &&& 0xF800 ≠ 0) :
    ownAckNotice src causes s = (s, .plain .invalidParameter) := by
  refine if_pos (h.imp_right ?_)
  rw [← Bool.not_eq_true]
  rintro (⟨hsrc, hcauses⟩ | ⟨hsrc, hcauses⟩)
  · rwa [causesOf, if_pos hsrc, namesOnly_unit_iff]
  · rwa [causesOf, if_neg hsrc, namesOnly_tenant_iff]

theorem ownAckNotice_of_unit (hcauses : causes &&& 0xFC00 = 0) :
    ownAckNotice 0 causes s = (ackUnit causes s, .done (be 2 (ackUnit causes s).nu.unit.latched.toNat)) := by
  have hnamed : namesOnly (causesOf 0) causes = true := (namesOnly_unit_iff causes).2 hcauses
  rw [ownAckNotice, if_neg (by simp [hnamed]), if_neg (by simp)]
  rfl

section Tenant

variable (hsrc : src ≠ 0) (hle : src ≤ 127) (hcauses : causes &&& 0xF800 = 0)
include hsrc hle hcauses

theorem ownAckNotice_of_tenant :
    ownAckNotice src causes s =
      if (s.tenant src).state = .vacant then (s, .plain .incorrectState)
      else (ackTenant src causes s, .done (be 2 ((ackTenant src causes s).causes src).latched.toNat)) := by
  have hnamed : namesOnly (causesOf src) causes = true := by rwa [causesOf, if_neg hsrc, namesOnly_tenant_iff]
  rw [ownAckNotice, if_neg (by simp [hnamed, hle]), ackNotice, if_neg hsrc, State.sourceSet, if_neg hsrc]
  simp only [hsrc, ne_eq, not_false_eq_true, true_and]

theorem ownAckNotice_of_vacant (hstate : (s.tenant src).state = .vacant) :
    ownAckNotice src causes s = (s, .plain .incorrectState) := by
  rw [ownAckNotice_of_tenant hsrc hle hcauses, if_pos hstate]

theorem ownAckNotice_of_housed (hstate : (s.tenant src).state ≠ .vacant) :
    ownAckNotice src causes s = (ackTenant src causes s, .done (be 2 ((ackTenant src causes s).causes src).latched.toNat)) := by
  rw [ownAckNotice_of_tenant hsrc hle hcauses, if_neg hstate]

end Tenant

end AckNotice

theorem ownSetNoticeMask_of_unknown {mask : BitVec 16} {s : State} (h : mask &&& 0xFC00 ≠ 0) :
    ownSetNoticeMask mask s = (s, .plain .invalidParameter) :=
  if_neg (mt (namesOnly_unit_iff mask).1 h)

theorem ownSetNoticeMask_of_known {mask : BitVec 16} {s : State} (h : mask &&& 0xFC00 = 0) :
    ownSetNoticeMask mask s = (withUnitSet { s.nu.unit with mask := mask } s, .done (be 2 s.nu.unit.mask.toNat)) := by
  rw [ownSetNoticeMask, if_pos ((namesOnly_unit_iff mask).2 h), setUnitMask_eq]

/-! ### ACK-NOTICE and SET-NOTICE-MASK -/

theorem exec_ackNotice (tag : Byte) (src : Nat) (causes : BitVec 16) (s : State) :
    exec (.ackNotice tag src causes) s = .next (takeOrder (.ackNotice tag src causes) tag 0x60 (ownAckNotice src causes) s) := rfl

theorem exec_setNoticeMask (tag : Byte) (mask : BitVec 16) (s : State) :
    exec (.setNoticeMask tag mask) s = .next (takeOrder (.setNoticeMask tag mask) tag 0x61 (ownSetNoticeMask mask) s) := rfl

/-- Settles O50: each outcome is one answer of NU; the removed causes are in neither part, so those that hold join both again, and the
place of the source is judged on the queue as it stood. -/
theorem acknowledgementsAndTheUnitMask : Obligations.AcknowledgementsAndTheUnitMask := by
  refine ⟨fun tag src causes s h => ?ack, fun tag mask s h => ?mask⟩
  case ack =>
    have hexec := exec_ackNotice tag src causes s
    refine ⟨fun hbad => ?range, fun hsrc hle hcauses hstate => ?vacant, fun c hsrc hcauses hc => ?unit,
      fun c hsrc hle hcauses hstate hc => ?tenant⟩
    case range => exact refused_of_owner hexec h (ownAckNotice_of_out_of_range hbad)
    case vacant => exact refused_of_owner hexec h (ownAckNotice_of_vacant hsrc hle hcauses hstate)
    case unit =>
      subst hsrc
      rw [exec_order_of_atOwner hexec h (ownAckNotice_of_unit hcauses), ackUnit_eq, ← hc, withUnitSet_eq]
      rfl
    case tenant =>
      obtain ⟨frame, unit, same, others, queue⟩ := ackTenant_spec hstate hc
      refine ⟨_, exec_order_of_atOwner hexec h (ownAckNotice_of_housed hsrc hle hcauses hstate), ?_, unit, same, others, queue⟩
      rw [same, frame]
      rfl
  case mask =>
    have hexec := exec_setNoticeMask tag mask s
    refine ⟨fun hbad => ?unknown, fun hknown => ?known⟩
    case unknown => exact refused_of_owner hexec h (ownSetNoticeMask_of_unknown hbad)
    case known =>
      rw [exec_order_of_atOwner hexec h (ownSetNoticeMask_of_known hknown), withUnitSet_eq]
      rfl

end Sys2Proof.Stated
end

section
/-! The parts of the identity that are bytes of their own, what TP answers to IDENTIFY, LOCK-GROUPS and UNLOCK-GROUPS, and the statements
about these three orders. -/

namespace Sys2Proof.Stated

open Sys2Proof.Machine

/-! ### The identity in bytes (R190, 11.6) -/

theorem be_one (v : Nat) : be 1 v = [b1 v] := by
  rw [be, be, pow_zero, Nat.div_one, b1]

/-- The constant bytes of the identity: vendor, part and revision. -/
theorem constant_identity_bytes :
    be 2 Config.vendorCode ++ be 2 Config.partCode ++ be 1 Config.revision = [0x0E, 0x51, 0x22, 0x70, 0x01] := by decide

theorem b1_runState_code (r : RunState) : b1 r.code = match r with | .config => 0 | .running => 1 | .halted => 2 := by
  cases r <;> rfl

theorem b1_resetCause_code (r : ResetCause) :
    b1 r.code = match r with | .powerOn => 1 | .resetPin => 2 | .orderFull => 3 | .orderAccounts => 4 := by
  cases r <;> rfl

/-! ### What TP answers about its lock map (R191, R192) -/

section LockMap

variable (mask : BitVec 16) (s : State)

theorem ownLockGroups_eq :
    ownLockGroups mask s =
      ({ s with tp := { s.tp with lockMap := s.tp.lockMap ||| mask } }, .done (be 2 (s.tp.lockMap ||| mask).toNat)) := rfl

variable {s}

theorem ownUnlockGroups_of_no_service (h : s.tp.service = false) : ownUnlockGroups mask s = (s, .plain .locked) :=
  if_neg (by simp [h])

theorem ownUnlockGroups_of_service (h : s.tp.service = true) :
    ownUnlockGroups mask s =
      ({ s with tp := { s.tp with lockMap := s.tp.lockMap &&& ~~~mask } }, .done (be 2 (s.tp.lockMap &&& ~~~mask).toNat)) :=
  if_pos h

end LockMap

/-! ### IDENTIFY, LOCK-GROUPS and UNLOCK-GROUPS -/

theorem exec_identify (tag : Byte) (s : State) : exec (.identify tag) s = .next (takeOrder (.identify tag) tag 0x01 ownIdentify s) := rfl

theorem exec_lockGroups (tag : Byte) (mask : BitVec 16) (s : State) :
    exec (.lockGroups tag mask) s = .next (takeOrder (.lockGroups tag mask) tag 0x03 (ownLockGroups mask) s) := rfl

theorem exec_unlockGroups (tag : Byte) (mask : BitVec 16) (s : State) :
    exec (.unlockGroups tag mask) s = .next (takeOrder (.unlockGroups tag mask) tag 0x04 (ownUnlockGroups mask) s) := rfl

/-- Settles O55: the owner's answer is the identity, its constant bytes first and each code and count in bytes of its own. -/
theorem identifyAnswersTheIdentity : Obligations.IdentifyAnswersTheIdentity := by
  intro tag s h
  have hown : ownIdentify s = (s, .done (identifyBytes s)) := rfl
  rw [exec_order_of_atOwner (exec_identify tag s) h hown, identifyBytes, constant_identity_bytes]
  simp only [be_one, b1_runState_code, b1_resetCause_code]
  rfl

/-- Settles O56: LOCK-GROUPS has one outcome, UNLOCK-GROUPS one for each level of the service flag. -/
theorem lockAndUnlockGroups : Obligations.LockAndUnlockGroups := by
  refine ⟨fun tag mask s h => ?lock, fun tag mask s h => ⟨fun hclear => ?locked, fun hset => ?unlock⟩⟩
  case lock => exact exec_order_of_atOwner (exec_lockGroups tag mask s) h (ownLockGroups_eq mask s)
  case locked => exact refused_of_owner (exec_unlockGroups tag mask s) h (ownUnlockGroups_of_no_service mask hclear)
  case unlock => exact exec_order_of_atOwner (exec_unlockGroups tag mask s) h (ownUnlockGroups_of_service mask hset)

end Sys2Proof.Stated
end

section

/-! ### Every command answers a next state, takes nothing from the queue of commands and keeps the invariant -/

namespace Sys2Proof.Stated

open Sys2Proof.Machine

/-! ### What the blocks' operations leave -/

/-- An operation made of the blocks' updates leaves the queue of commands, CT, and what TP keeps beside its upstream queues. -/
theorem frame_of_keeps {s t : State} (h : Keeps (closed_frame s) s → Keeps (closed_frame s) t) :
    t.pending = s.pending ∧ t.ct = s.ct ∧ t.tp.line = s.tp.line :=
  (h ⟨⟨rfl, rfl, rfl⟩⟩).holds

theorem pending_of_keeps {s t : State} (h : Keeps (closed_frame s) s → Keeps (closed_frame s) t) : t.pending = s.pending :=
  (frame_of_keeps h).1

/-- A fold of operations that each leave the queue of commands leaves it. -/
theorem pending_foldl {α : Type} {f : State → α → State} (hf : ∀ s a, (f s a).pending = s.pending) (l : List α) (s : State) :
    (l.foldl f s).pending = s.pending := by
  induction l generalizing s with
  | nil => rfl
  | cons a l ih => rw [List.foldl_cons, ih, hf]

/-! ### The queue of commands through HALT, the resets and the broadcast orders -/

section Pending

variable (s : State)

@[simp] theorem pending_haltUnit : (haltUnit s).pending = s.pending :=
  pending_of_keeps (t := endDelivery (finishExpiry s)) fun h => h.finishExpiry.endDelivery

@[simp] theorem pending_resetUnit (k : ResetKind) : (resetUnit k s).pending = s.pending := by cases k <;> rfl

@[simp] theorem pending_handOver (c : Instr) : (handOver s c).pending = s.pending := by
  unfold handOver actHalt actResetUnit
  split
  · split_ifs
    · exact pending_haltUnit s
    · rfl
  · split
    · rfl
    · split_ifs
      · rfl
      · exact pending_resetUnit s _
  · rfl

@[simp] theorem pending_arriveBroadcast (c : Instr) : (arriveBroadcast c s).pending = s.pending := by
  unfold arriveBroadcast
  split_ifs
  · rfl
  · exact pending_handOver s c

theorem pending_broadcastFrame (c : Instr) : (broadcastFrame c s).pending = s.pending := by
  unfold broadcastFrame
  split_ifs
  · exact pending_arriveBroadcast _ c
  · rfl

/-! ### The queue of commands through reception and transmission -/

@[simp] theorem pending_decodeUnicast (tag : Byte) (payload : List Byte) : (decodeUnicast tag payload s).pending = s.pending := by
  unfold decodeUnicast refuseOrder
  split
  · rfl
  · split_ifs
    · split <;> rfl
    · rfl

@[simp] theorem pending_receiveBroadcast (payload : List Byte) : (receiveBroadcast payload s).pending = s.pending := by
  unfold receiveBroadcast
  split
  · rfl
  · split
    · exact pending_arriveBroadcast _ _
    · rfl

@[simp] theorem pending_receiveUnicast (f : TrunkFrame) : (receiveUnicast f s).pending = s.pending := by
  unfold receiveUnicast
  dsimp only
  split_ifs
  · exact pending_decodeUnicast _ _ _
  · rfl

@[simp] theorem pending_routeFrame (f : TrunkFrame) : (routeFrame f s).pending = s.pending := by
  unfold routeFrame
  split_ifs
  · rfl
  · rfl
  · rfl
  · exact pending_receiveBroadcast s _
  · exact pending_receiveUnicast s f

@[simp] theorem pending_takeFrame (bytes : List Byte) (error : Bool) : (takeFrame bytes error s).pending = s.pending := by
  unfold takeFrame
  split_ifs
  · rfl
  · split
    · exact pending_routeFrame s _
    · rfl

theorem pending_receiveCharacter (c : Character) : (receiveCharacter s c).pending = s.pending := by
  unfold receiveCharacter
  dsimp only
  split
  · split_ifs
    · exact pending_takeFrame _ _ _
    · rfl
  · rfl

theorem pending_receiveTrunk (chars : List Character) : (receiveTrunk chars s).pending = s.pending :=
  pending_foldl pending_receiveCharacter chars s

theorem pending_selectFrame : (selectFrame s).pending = s.pending := by
  have hbuild : ∀ source rest, (afterBuild source rest s).pending = s.pending := by
    intro source rest
    unfold afterBuild
    split_ifs <;> rfl
  unfold selectFrame
  split
  · rfl
  · split
    · exact hbuild _ _
    · split
      · rfl
      · split <;> rfl

theorem pending_endTransmission : (endTransmission s).pending = s.pending := by
  unfold endTransmission
  dsimp only
  split
  · exact pending_resetUnit _ _
  · rfl

end Pending

/-! ### The 21 unicast orders -/

/-- An owner takes nothing from the queue of commands. -/
def OwnerLeavesPending (owner : State → State × Answer) : Prop := ∀ s, (owner s).1.pending = s.pending

theorem OwnerLeavesPending.of_keeps {owner : State → State × Answer}
    (hk : ∀ {P : State → Prop} {hP : Closed P} {t : State}, Keeps hP t → Keeps hP (owner t).1) : OwnerLeavesPending owner :=
  fun _ => pending_of_keeps hk

theorem pending_answerOrder {tag : Byte} {code : Nat} {owner : State → State × Answer} (ho : OwnerLeavesPending owner) (s : State) :
    (answerOrder tag code owner s).pending = s.pending := by
  unfold answerOrder
  rw [pending_foldl pending_handOver]
  exact ho _

theorem pending_takeOrder {c : Instr} {tag : Byte} {code : Nat} {owner : State → State × Answer} (ho : OwnerLeavesPending owner)
    (s : State) : (takeOrder c tag code owner s).pending = s.pending := by
  unfold takeOrder
  split_ifs
  · exact pending_answerOrder ho s
  · rfl
  · exact pending_answerOrder ho _
  · rfl

/-- An order command is its owner's answer as TP takes it, and the owner keeps the invariant and the queue of commands. -/
structure OrderOf (c : Instr) (tag : Byte) (code : Nat) (owner : State → State × Answer) : Prop where
  exec : ∀ s, exec c s = .next (takeOrder c tag code owner s)
  keeps : OwnerKeeps owner
  pending : OwnerLeavesPending owner

theorem OrderOf.of_keeps {c : Instr} {tag : Byte} {code : Nat} {owner : State → State × Answer}
    (hexec : ∀ s, Machine.exec c s = .next (takeOrder c tag code owner s))
    (hk : ∀ {P : State → Prop} {hP : Closed P} {t : State}, Keeps hP t → Keeps hP (owner t).1) : OrderOf c tag code owner :=
  ⟨hexec, .of_keeps hk, .of_keeps hk⟩

/-! ### The owners that write CT or TP -/

theorem ownConfigureUnit_keeps (f : UnitFields) : OwnerKeeps (ownConfigureUnit f) := by
  intro t ht hb
  unfold ownConfigureUnit
  split_ifs with hrange hrun
  · exact ⟨ht, hb⟩
  · exact ⟨ht, hb⟩
  · simp only [configInRange, Bool.and_eq_false_iff, not_or, Bool.not_eq_false, decide_eq_true_eq] at hrange
    obtain ⟨⟨⟨hlow, hhigh, -⟩, -⟩, -⟩ := hrange
    have hct : CadenceInv { t.ct with config := configOf f, configured := true } :=
      ⟨⟨hlow, hhigh⟩, fun hr => absurd hr hrun, ht.cadence.stopped, ht.cadence.config⟩
    exact ⟨⟨hct, ht.feeds, ht.switchQueue, ht.noticeQueue, ht.trunk⟩, hb⟩

theorem startFrom_keeps {n : Period} {s : State} (h : BlockInv s) (hconf : s.ct.configured = true) : BlockInv (startFrom n s) := by
  obtain ⟨hlow, hhigh⟩ := h.cadence.interval
  have hct : CadenceInv { s.ct with
      n := n, collectingOpen := false, countdown := some s.ct.config.periodTicks, runState := .running, expiriesDue := 0 } :=
    ⟨⟨hlow, hhigh⟩, fun _ => ⟨hconf, _, rfl, Nat.mul_pos hlow (by decide), le_rfl⟩, fun hn => absurd rfl hn, nofun⟩
  exact ⟨hct, h.feeds, h.switchQueue.of_eq rfl, h.noticeQueue, h.trunk⟩

theorem ownStart_keeps : OwnerKeeps ownStart := by
  intro t ht hb
  by_cases hbad : t.ct.runState = .running ∨ t.ct.configured = false
  · rw [ownStart_of_refused hbad]
    exact ⟨ht, hb⟩
  · obtain ⟨-, hconf⟩ := not_or.1 hbad
    rw [Bool.not_eq_false] at hconf
    rw [ownStart, if_neg hbad]
    split_ifs
    · exact ⟨startFrom_keeps ht hconf, hb⟩
    · exact ⟨((startFrom_keeps ht hconf).kept.markNoBaseline _).holds, hb⟩

theorem ownHalt_keeps : OwnerKeeps ownHalt := by
  intro t ht hb
  unfold ownHalt
  split_ifs
  · have hline : (haltUnit t).tp.line = t.tp.line :=
      (frame_of_keeps (s := t) (t := endDelivery (finishExpiry t)) fun h => h.finishExpiry.endDelivery).2.2
    exact ⟨ht.haltUnit, (congrArg TrunkPort.broadcasts hline).trans hb⟩
  · exact ⟨ht, hb⟩

theorem ownResetUnit_keeps (option : Nat) : OwnerKeeps (ownResetUnit option) := by
  intro t ht hb
  unfold ownResetUnit
  split
  · exact ⟨ht, hb⟩
  · split_ifs
    · exact ⟨ht, hb⟩
    · exact ⟨⟨ht.cadence, ht.feeds, ht.switchQueue, ht.noticeQueue, { ht.trunk with }⟩, hb⟩

theorem ownLockGroups_keeps (mask : BitVec 16) : OwnerKeeps (ownLockGroups mask) :=
  fun _ ht hb => ⟨⟨ht.cadence, ht.feeds, ht.switchQueue, ht.noticeQueue, { ht.trunk with }⟩, hb⟩

theorem ownUnlockGroups_keeps (mask : BitVec 16) : OwnerKeeps (ownUnlockGroups mask) := by
  intro t ht hb
  unfold ownUnlockGroups
  split_ifs
  · exact ⟨⟨ht.cadence, ht.feeds, ht.switchQueue, ht.noticeQueue, { ht.trunk with }⟩, hb⟩
  · exact ⟨ht, hb⟩

theorem ownConfigureUnit_pending (f : UnitFields) : OwnerLeavesPending (ownConfigureUnit f) := by
  intro s
  unfold ownConfigureUnit
  split_ifs <;> rfl

theorem ownStart_pending : OwnerLeavesPending ownStart := by
  intro s
  unfold ownStart
  split_ifs <;> rfl

theorem ownHalt_pending : OwnerLeavesPending ownHalt := by
  intro s
  unfold ownHalt
  split_ifs
  · exact pending_haltUnit s
  · rfl

theorem ownResetUnit_pending (option : Nat) : OwnerLeavesPending (ownResetUnit option) := by
  intro s
  unfold ownResetUnit
  split
  · rfl
  · split_ifs <;> rfl

theorem ownUnlockGroups_pending (mask : BitVec 16) : OwnerLeavesPending (ownUnlockGroups mask) := by
  intro s
  unfold ownUnlockGroups
  split_ifs <;> rfl

/-- Each of the 21 unicast orders has its owner (11.5). -/
theorem exists_orderOf {c : Instr} (h : isOrder c = true) : ∃ tag code owner, OrderOf c tag code owner := by
  cases c
  case identify => exact ⟨_, _, ownIdentify, fun _ => rfl, fun _ ht hb => ⟨ht, hb⟩, fun _ => rfl⟩
  case resetUnit tag o => exact ⟨_, _, ownResetUnit o, fun _ => rfl, ownResetUnit_keeps o, ownResetUnit_pending o⟩
  case lockGroups tag m => exact ⟨_, _, ownLockGroups m, fun _ => rfl, ownLockGroups_keeps m, fun _ => rfl⟩
  case unlockGroups tag m => exact ⟨_, _, ownUnlockGroups m, fun _ => rfl, ownUnlockGroups_keeps m, ownUnlockGroups_pending m⟩
  case configureUnit tag f => exact ⟨_, _, ownConfigureUnit f, fun _ => rfl, ownConfigureUnit_keeps f, ownConfigureUnit_pending f⟩
  case start => exact ⟨_, _, ownStart, fun _ => rfl, ownStart_keeps, ownStart_pending⟩
  case halt => exact ⟨_, _, ownHalt, fun _ => rfl, ownHalt_keeps, ownHalt_pending⟩
  case forgetHead => exact ⟨_, _, _, .of_keeps (fun _ => rfl) fun hk => hk.ownForgetHead _⟩
  case bindOutlet => exact ⟨_, _, _, .of_keeps (fun _ => rfl) fun hk => hk.ownBindOutlet _⟩
  case alterOutlet => exact ⟨_, _, _, .of_keeps (fun _ => rfl) fun hk => hk.ownAlterOutlet _ _ _ _⟩
  case releaseOutlet => exact ⟨_, _, _, .of_keeps (fun _ => rfl) fun hk => hk.ownReleaseOutlet _ _ _⟩
  case readOutlet => exact ⟨_, _, _, .of_keeps (fun _ => rfl) fun hk => hk.ownReadOutlet _ _⟩
  case setContract => exact ⟨_, _, _, .of_keeps (fun _ => rfl) fun hk => hk.ownSetContract _ _⟩
  case holdTenant => exact ⟨_, _, _, .of_keeps (fun _ => rfl) fun hk => hk.ownHoldTenant _⟩
  case resumeTenant => exact ⟨_, _, _, .of_keeps (fun _ => rfl) fun hk => hk.ownResumeTenant _⟩
  case closeTenant => exact ⟨_, _, _, .of_keeps (fun _ => rfl) fun hk => hk.ownCloseTenant _ _⟩
  case statement => exact ⟨_, _, _, .of_keeps (fun _ => rfl) fun hk => hk.ownStatement _ _ _⟩
  case resetTenant => exact ⟨_, _, _, .of_keeps (fun _ => rfl) fun hk => hk.ownResetTenant _⟩
  case restoreOutlets => exact ⟨_, _, _, .of_keeps (fun _ => rfl) fun hk => hk.ownRestoreOutlets _ _⟩
  case ackNotice => exact ⟨_, _, _, .of_keeps (fun _ => rfl) fun hk => hk.ownAckNotice _ _⟩
  case setNoticeMask => exact ⟨_, _, _, .of_keeps (fun _ => rfl) fun hk => hk.ownSetNoticeMask _⟩
  all_goals cases h

/-! ### The other commands -/

/-- What every command does: it answers a next state, which has the invariant if the state had it, and leaves the queue of commands. -/
def Goes (c : Instr) (s : State) : Prop := ∃ t, exec c s = .next t ∧ t.pending = s.pending ∧ (BlockInv s → BlockInv t)

section Goes

variable {c : Instr} {s t : State}

theorem Goes.of_order (h : isOrder c = true) (s : State) : Goes c s := by
  obtain ⟨tag, code, owner, ho⟩ := exists_orderOf h
  exact ⟨_, ho.exec s, pending_takeOrder ho.pending s, fun hs => hs.takeOrder ho.keeps⟩

/-- A command made of the blocks' updates. -/
theorem Goes.of_keeps (hexec : exec c s = .next t) (hk : ∀ {P : State → Prop} {hP : Closed P}, Keeps hP s → Keeps hP t) : Goes c s :=
  ⟨t, hexec, pending_of_keeps hk, fun hs => (hk hs.kept).holds⟩

/-- A command that does something under a condition and nothing otherwise. -/
theorem Goes.of_ite {p : Prop} [Decidable p] (hexec : exec c s = .next (if p then t else s))
    (ht : p → t.pending = s.pending ∧ (BlockInv s → BlockInv t)) : Goes c s := by
  refine ⟨_, hexec, ?_, ?_⟩
  · split_ifs with hp
    · exact (ht hp).1
    · rfl
  · split_ifs with hp
    · exact (ht hp).2
    · exact id

theorem Goes.of_keeps_ite {p : Prop} [Decidable p] (hexec : exec c s = .next (if p then t else s))
    (hk : ∀ {P : State → Prop} {hP : Closed P}, Keeps hP s → Keeps hP t) : Goes c s :=
  .of_ite hexec fun _ => ⟨pending_of_keeps hk, fun hs => (hk hs.kept).holds⟩

end Goes

/-- A hard reset is the block after power-on with the straps and the cause set. -/
theorem hardReset_inv (cause : ResetCause) (uaddr : BitVec 4) (service : Bool) (s : State) : BlockInv (hardReset cause uaddr service s) where
  cadence := cadenceInv_initial 0
  feeds := feedsInv_initial
  switchQueue := ⟨Nat.zero_le _, List.nodup_nil⟩
  noticeQueue := List.nodup_singleton 0
  trunk := by constructor <;> simp [hardReset, TrunkPort.initial]

theorem blockInv_reset : BlockInv State.reset := hardReset_inv .powerOn 0 false State.reset

section Commands

variable (s : State)

theorem goes_cadenceExpiry : Goes .cadenceExpiry s := by
  refine .of_ite rfl fun ⟨hrun, _⟩ => ?_
  have hd : ∀ {P : State → Prop} {hP : Closed P}, Keeps hP s → Keeps hP (if s.ct.collectingOpen then endDelivery s else s) := by
    intro P hP hk
    split_ifs
    · exact hk.endDelivery
    · exact hk
  obtain ⟨hpending, hct, -⟩ := frame_of_keeps hd
  refine ⟨hpending, fun hs => ?_⟩
  have hended := (hd hs.kept).holds
  exact ⟨hended.cadence.expire (by rw [hct]; exact hrun), hended.feeds, hended.switchQueue.of_eq rfl, hended.noticeQueue, hended.trunk⟩

theorem goes_replyWaitClose : Goes .replyWaitClose s := by
  refine .of_keeps rfl fun hk => ?_
  split
  · split_ifs
    · exact hk.notAnswered _
    · exact hk
  · exact hk

theorem goes_sync : Goes .sync s := by
  refine .of_keeps rfl fun hk => ?_
  unfold sendSync
  split
  · split_ifs
    · exact hk
    · exact hk.onMlc fun hm => beginRound_inv hm _
  · exact hk

theorem goes_replyWindowExpiry : Goes .replyWindowExpiry s := by
  refine ⟨_, rfl, ?_, fun hs => ?_⟩
  · split
    · split_ifs <;> rfl
    · rfl
  · split
    · split_ifs
      · exact hs.closeWindow
      · exact hs
    · exact hs

theorem goes_replyStart : Goes .replyStart s := by
  refine ⟨_, rfl, ?_, fun hs => ?_⟩
  · split
    · split_ifs <;> rfl
    · rfl
  · split
    · next r hr =>
      split_ifs
      · exact hs.onTp fun hp => { hp with reply := fun _ => by simp [hr], inHand := nofun }
      · exact hs
    · exact hs

theorem goes_idleGap : Goes .idleGap s := by
  refine .of_ite rfl fun _ => ?_
  split
  · exact ⟨rfl, fun hs => hs.startInHand _⟩
  · exact ⟨pending_selectFrame s, BlockInv.selectFrame⟩

end Commands

/-- Each command, by its own meaning. -/
theorem goes (c : Instr) (s : State) : Goes c s := by
  cases horder : isOrder c with
  | true => exact .of_order horder s
  | false =>
    cases c
    case powerOn u v => exact ⟨_, rfl, rfl, fun _ => hardReset_inv _ u v s⟩
    case pinReset u v => exact ⟨_, rfl, rfl, fun _ => hardReset_inv _ u v s⟩
    case tick => exact ⟨_, rfl, rfl, fun hs => ⟨hs.cadence.tick, hs.feeds, hs.switchQueue.of_eq rfl, hs.noticeQueue, { hs.trunk with }⟩⟩
    case cadenceExpiry => exact goes_cadenceExpiry s
    case sync => exact goes_sync s
    case switch => exact Goes.of_keeps_ite rfl fun hk => hk.onMlc sendSwitch_inv
    case poll => exact Goes.of_keeps_ite rfl fun hk => hk.onMlc pollNext_inv
    case probe => exact Goes.of_keeps_ite rfl fun hk => hk.onMlc probeNext_inv
    case replyWaitClose => exact goes_replyWaitClose s
    case replyFrame => exact .of_keeps rfl fun hk => hk.receiveReply _
    case strayFrame => exact Goes.of_keeps_ite rfl fun hk => hk.latchUnit _
    case roundEnd => exact Goes.of_keeps_ite rfl fun hk => hk.endRound
    case deliveryTake => exact .of_keeps rfl fun hk => hk.takeDelivery _
    case close => exact .of_keeps rfl fun hk => hk.closePeriod
    case armExpiry => exact .of_keeps rfl fun hk => hk.closeWith _ _
    case shedFailed => exact .of_keeps rfl fun hk => hk.closeWith _ _
    case restoreLimit => exact .of_keeps rfl fun hk => hk.closeWith _ _
    case trunkFrame => exact .of_ite rfl fun _ => ⟨pending_receiveTrunk s _, fun hs => hs.receiveTrunk _⟩
    case replyWindowExpiry => exact goes_replyWindowExpiry s
    case replyStart => exact goes_replyStart s
    case frameTransmitEnd => exact ⟨_, rfl, pending_endTransmission s, BlockInv.endTransmission⟩
    case arbitrationLost b => exact ⟨_, rfl, rfl, fun hs => hs.onTp fun hp => lose_inv hp b⟩
    case idleGap => exact goes_idleGap s
    case fullReset => exact .of_ite rfl fun _ => ⟨pending_endTransmission s, BlockInv.endTransmission⟩
    case accountsReset => exact .of_ite rfl fun _ => ⟨pending_endTransmission s, BlockInv.endTransmission⟩
    case broadcastHalt => exact ⟨_, rfl, pending_broadcastFrame s _, fun hs => hs.broadcastFrame _⟩
    case broadcastResetUnit => exact ⟨_, rfl, pending_broadcastFrame s _, fun hs => hs.broadcastFrame _⟩
    case trunkReceptionIdleEnd => exact .of_ite rfl fun _ => ⟨rfl, fun hs => hs.frameHeard.latchUnit _⟩
    all_goals cases horder

/-! ### The statements about every step -/

/-- Settles O2: each command answers, and leaves the queue of commands. -/
theorem everyCommandAnswersNext : Obligations.EveryCommandAnswersNext := by
  intro c s
  obtain ⟨t, hexec, hpending, -⟩ := goes c s
  exact ⟨t, hexec, hpending⟩

/-- Settles O1: by the two cases of the queue. -/
theorem stepRunsTheFrontCommand : Obligations.StepRunsTheFrontCommand :=
  ⟨fun _ _ _ => rfl, fun s h => by rw [step, h]⟩

/-- Settles O58: power-on is one of the hard resets. -/
theorem invariantHoldsAfterPowerOn : Obligations.InvariantHoldsAfterPowerOn := blockInv_reset

/-- Settles O59: a step is the front command on the state with the rest of the queue, and that command keeps the invariant and that rest. -/
theorem everyStepKeepsTheInvariant : Obligations.EveryStepKeepsTheInvariant := by
  intro s t hs hstep
  cases hq : s.pending with
  | nil =>
    rw [step, hq] at hstep
    obtain rfl : s = t := by injection hstep
    exact ⟨hs, hq⟩
  | cons c rest =>
    rw [step, hq] at hstep
    have hrest : BlockInv { s with pending := rest } := ⟨hs.cadence, hs.feeds, hs.switchQueue, hs.noticeQueue, hs.trunk⟩
    obtain ⟨u, hexec, hpending, hkeeps⟩ := goes c { s with pending := rest }
    obtain rfl : u = t := by
      have := hexec.symm.trans hstep
      injection this
    exact ⟨hkeeps hrest, hpending⟩

/-- Settles O4: every value is State.reset's own, an unlisted record reads as the initial one, and a hard reset sets the straps and the cause. -/
theorem powerOnAndPinResetValues : Obligations.PowerOnAndPinResetValues :=
  ⟨⟨rfl, fun _ => rfl, fun _ => rfl, fun _ => rfl, fun _ => rfl, fun _ => rfl, fun _ => rfl⟩, fun _ _ _ => ⟨rfl, rfl⟩⟩

end Sys2Proof.Stated
end

section

/-! ### What is written by the operations that deliveries, orders and closes share -/

namespace Sys2Proof.Stated

open Sys2Proof.Machine

/-- What a fold's operations each keep of the state before, the fold keeps. -/
theorem foldl_related {α : Type} {R : State → State → Prop} {f : State → α → State} (hrefl : ∀ s, R s s)
    (htrans : ∀ {s t u}, R s t → R t u → R s u) (hf : ∀ s a, R s (f s a)) (l : List α) (s : State) : R s (l.foldl f s) := by
  induction l generalizing s with
  | nil => exact hrefl s
  | cons a l ih => exact htrans (hf s a) (ih (f s a))

/-! ### Operations that write NU alone -/

/-- Nothing but NU is written. -/
def WritesNu (s t : State) : Prop := t = { s with nu := t.nu }

section Nu

variable {s t u : State}

theorem WritesNu.refl (s : State) : WritesNu s s := rfl

theorem WritesNu.trans (h : WritesNu s t) (g : WritesNu t u) : WritesNu s u := by
  unfold WritesNu at *
  rw [g, h]

theorem writesNu_latchUnit (c : UnitCause) (s : State) : WritesNu s (latchUnit c s) := rfl

theorem writesNu_latchTenant (c : TenantCause) (n : Nat) (s : State) : WritesNu s (latchTenant c n s) := by
  unfold latchTenant
  split_ifs <;> rfl

theorem writesNu_latchTenants (c : TenantCause) (ns : List Nat) (s : State) : WritesNu s (latchTenants c ns s) :=
  foldl_related .refl .trans (fun s n => writesNu_latchTenant c n s) ns s

end Nu

/-! ### Operations that write OAE's accounts alone -/

/-- Nothing but what OAE keeps of the tenants is written. -/
def WritesAccounts (s t : State) : Prop := t = { s with oae := { s.oae with accounts := t.oae.accounts } }

section Accounts

variable {s t u : State}

theorem WritesAccounts.refl (s : State) : WritesAccounts s s := rfl

theorem WritesAccounts.trans (h : WritesAccounts s t) (g : WritesAccounts t u) : WritesAccounts s u := by
  unfold WritesAccounts at *
  rw [g, h]

theorem writesAccounts_setAccount (s : State) (n : Nat) (a : Account) : WritesAccounts s (s.setAccount n a) := rfl

theorem writesAccounts_markIncomplete (ns : List Nat) (s : State) : WritesAccounts s (markIncomplete ns s) :=
  foldl_related (R := WritesAccounts) WritesAccounts.refl WritesAccounts.trans (fun s _ => writesAccounts_setAccount s _ _) ns s

theorem writesAccounts_removeRates (f : Feed) (shares : List ShareEntry) (s : State) : WritesAccounts s (removeRates f shares s) :=
  foldl_related (R := WritesAccounts) WritesAccounts.refl WritesAccounts.trans (fun s _ => writesAccounts_setAccount s _ _) shares s

theorem writesAccounts_attributeParts (f : Feed) (seconds : Nat) (pairs : List (ShareEntry × Nat)) (s : State) :
    WritesAccounts s (attributeParts f seconds pairs s) :=
  foldl_related (R := WritesAccounts) WritesAccounts.refl WritesAccounts.trans
    (fun s _ => (writesAccounts_setAccount s _ _).trans (writesAccounts_setAccount _ _ _)) pairs s

end Accounts

/-! ### Records and deliveries (R43, R61, R73, R200) -/

/-- What taking records can write: outlet records, accounts, the unattributed accumulator, cause sets. -/
def WritesRecords (s u : State) : Prop :=
  u =
    { s with
      ot := { s.ot with outlets := u.ot.outlets }
      oae := { s.oae with accounts := u.oae.accounts, unattributed := u.oae.unattributed }, nu := u.nu }

section Records

variable {s t u : State}

theorem WritesRecords.refl (s : State) : WritesRecords s s := rfl

theorem WritesRecords.trans (h : WritesRecords s t) (g : WritesRecords t u) : WritesRecords s u := by
  unfold WritesRecords at *
  rw [g, h]

theorem WritesNu.records (h : WritesNu s t) : WritesRecords s t := by
  unfold WritesNu at h
  unfold WritesRecords
  rw [h]

theorem WritesAccounts.records (h : WritesAccounts s t) : WritesRecords s t := by
  unfold WritesAccounts at h
  unfold WritesRecords
  rw [h]

theorem writesRecords_setOutlet (s : State) (k : Nat) (o : Outlet) : WritesRecords s (s.setOutlet k o) := rfl

theorem writesRecords_suspect (o : Outlet) (s : State) : WritesRecords s (suspect o s) := by
  unfold suspect
  split_ifs
  · exact (writesAccounts_markIncomplete _ s).records.trans (writesNu_latchTenants _ _ _).records
  · exact .refl s

theorem writesRecords_takeUnbound (key : Nat) (o : Outlet) (stamp : Period) (r : MeterRecord) (d seconds : Nat) (s : State) :
    WritesRecords s (takeUnbound key o stamp r d seconds s) := by
  unfold takeUnbound
  dsimp only
  split_ifs <;> rfl

theorem writesRecords_takeBound (key : Nat) (o : Outlet) (stamp : Period) (r : MeterRecord) (d seconds : Nat) (s : State) :
    WritesRecords s (takeBound key o stamp r d seconds s) :=
  (writesAccounts_attributeParts _ _ _ s).records.trans (writesRecords_setOutlet _ _ _)

theorem writesRecords_takeRecord (head : Nat) (stamp : Period) (r : MeterRecord) (s : State) :
    WritesRecords s (takeRecord head stamp r s).1 := by
  unfold takeRecord
  dsimp only
  split
  · dsimp only
    split_ifs
    · exact (writesRecords_setOutlet s _ _).trans (writesAccounts_markIncomplete _ _).records
    · rfl
  · rfl
  · rfl
  · exact (writesRecords_setOutlet s _ _).trans (writesRecords_suspect _ _)
  · exact (writesRecords_setOutlet s _ _).trans (writesRecords_suspect _ _)
  · split_ifs
    · exact writesRecords_takeBound _ _ _ _ _ _ s
    · exact writesRecords_takeUnbound _ _ _ _ _ _ s

/-- Each record is annotated once, and nothing is written but what records write. -/
theorem recordsTaken_takeRecords (head : Nat) (stamp : Period) (records : List MeterRecord) (s : State) :
    RecordsTaken records (takeRecords head stamp records s).2 s (takeRecords head stamp records s).1 := by
  induction records generalizing s with
  | nil => exact ⟨rfl, rfl⟩
  | cons r rest ih =>
    obtain ⟨hlength, hrest⟩ := ih (takeRecord head stamp r s).1
    exact ⟨congrArg (· + 1) hlength, (writesRecords_takeRecord head stamp r s).trans hrest⟩

/-- The oldest copy leaves with its annotations, by the forward mode and the room of the Forward Queue. -/
theorem copyOffered_finishCopy (entries : List ForwardEntry) (s : State) : CopyOffered entries s (finishCopy entries s) := by
  refine ⟨fun hnone => ?none, fun c more hcopies => ⟨fun hoff => ?off, fun hon hroom => ?queued, fun hon hfull => ?dropped⟩⟩
  case none => rw [finishCopy, hnone]
  case off => simp [finishCopy, hcopies, offerForward, hoff, State.onTp]
  case queued => simp [finishCopy, hcopies, offerForward, hon, Config.forwardDepth, hroom, State.onTp]
  case dropped =>
    have hno : ¬ s.tp.forwards.length < Config.forwardDepth := Nat.not_lt.2 hfull
    simp [finishCopy, hcopies, offerForward, hon, hno, State.onTp, Config.dropMax, latchUnit, State.onNu]

theorem endDelivery_of_none (h : s.oae.taking = none) : endDelivery s = s := by rw [endDelivery, h]

theorem advanceDelivery_of_lt {k : Taking} {n : Nat} (h : s.oae.taking = some k) (hn : n < k.rest.length) :
    advanceDelivery n s =
      (takeRecords k.head k.stamp (k.rest.take n) s).1.onOae fun o =>
        { o with
          taking := some { k with
            rest := k.rest.drop n, entries := k.entries ++ (takeRecords k.head k.stamp (k.rest.take n) s).2 } } := by
  rw [advanceDelivery, h]
  exact if_pos hn

/-- With as many records as are left, or more, the delivery is taken to its end. -/
theorem advanceDelivery_of_le {k : Taking} {n : Nat} (h : s.oae.taking = some k) (hn : k.rest.length ≤ n) :
    advanceDelivery n s =
      finishCopy (k.entries ++ (takeRecords k.head k.stamp k.rest s).2)
        ((takeRecords k.head k.stamp k.rest s).1.onOae fun o => { o with taking := none }) := by
  rw [advanceDelivery, h]
  dsimp only
  rw [if_neg (Nat.not_lt.2 hn), List.take_of_length_le hn]

theorem endDelivery_of_some {k : Taking} (h : s.oae.taking = some k) :
    endDelivery s =
      finishCopy (k.entries ++ (takeRecords k.head k.stamp k.rest s).2)
        ((takeRecords k.head k.stamp k.rest s).1.onOae fun o => { o with taking := none }) := by
  rw [endDelivery, h]
  exact advanceDelivery_of_le h le_rfl

theorem deliveryEnded_endDelivery (s : State) : DeliveryEnded s (endDelivery s) := by
  refine ⟨endDelivery_of_none, fun k hk => ?_⟩
  refine ⟨(takeRecords k.head k.stamp k.rest s).1, (takeRecords k.head k.stamp k.rest s).2, rfl,
    recordsTaken_takeRecords k.head k.stamp k.rest s, ?_⟩
  rw [endDelivery_of_some hk]
  exact copyOffered_finishCopy _ _

/-- What the end of a delivery can write beside what its records write: the delivery itself, the copies, the Forward Queue, the drop count. -/
def WritesDelivery (s t : State) : Prop :=
  t =
    { s with
      ot := { s.ot with outlets := t.ot.outlets }
      oae := { s.oae with accounts := t.oae.accounts, unattributed := t.oae.unattributed, taking := t.oae.taking }
      nu := t.nu
      tp := { s.tp with copies := t.tp.copies, forwards := t.tp.forwards, dropCount := t.tp.dropCount } }

theorem WritesDelivery.trans (h : WritesDelivery s t) (g : WritesDelivery t u) : WritesDelivery s u := by
  unfold WritesDelivery at *
  rw [g, h]

theorem WritesRecords.delivery (h : WritesRecords s t) : WritesDelivery s t := by
  unfold WritesRecords at h
  unfold WritesDelivery
  rw [h]

theorem writesDelivery_finishCopy (entries : List ForwardEntry) (s : State) : WritesDelivery s (finishCopy entries s) := by
  unfold finishCopy offerForward
  split
  · rfl
  · split_ifs <;> rfl

theorem finishCopy_oae (entries : List ForwardEntry) (s : State) : (finishCopy entries s).oae = s.oae := by
  unfold finishCopy offerForward
  split
  · rfl
  · split_ifs <;> rfl

theorem writesDelivery_endDelivery (s : State) : WritesDelivery s (endDelivery s) := by
  cases hk : s.oae.taking with
  | none => rw [endDelivery_of_none hk]; rfl
  | some k =>
    have htaken : WritesRecords s (takeRecords k.head k.stamp k.rest s).1 := (recordsTaken_takeRecords k.head k.stamp k.rest s).2
    have hended : WritesDelivery (takeRecords k.head k.stamp k.rest s).1
        ((takeRecords k.head k.stamp k.rest s).1.onOae fun o => { o with taking := none }) := rfl
    rw [endDelivery_of_some hk]
    exact (htaken.delivery.trans hended).trans (writesDelivery_finishCopy _ _)

@[simp] theorem endDelivery_taking (s : State) : (endDelivery s).oae.taking = none := by
  cases hk : s.oae.taking with
  | none => rw [endDelivery_of_none hk, hk]
  | some k => rw [endDelivery_of_some hk, finishCopy_oae]; rfl

end Records

/-! ### DELIVERY_TAKE -/

theorem beginDelivery_of_waiting {s : State} {d : Delivery} {rest : List Delivery} (hnone : s.oae.taking = none)
    (hd : s.oae.deliveries = d :: rest) :
    beginDelivery s =
      { s with
        oae := { s.oae with
          deliveries := rest, taking := some { head := d.head, stamp := d.stamp, rest := d.records, entries := [] } } } := by
  rw [beginDelivery, hnone, hd]
  rfl

theorem beginDelivery_of_begun {s : State} {k : Taking} (h : s.oae.taking = some k) : beginDelivery s = s := by
  rw [beginDelivery, h]

theorem beginDelivery_of_nothing {s : State} (hnone : s.oae.taking = none) (hd : s.oae.deliveries = []) : beginDelivery s = s := by
  rw [beginDelivery, hnone, hd]

theorem takeDelivery_of_closes {s : State} (h : s.oae.closes ≠ []) (n : Option Nat) : takeDelivery n s = s := if_neg h

theorem takeDelivery_none {s : State} (h : s.oae.closes = []) : takeDelivery none s = endDelivery (beginDelivery s) := if_pos h

theorem takeDelivery_some {s : State} (h : s.oae.closes = []) (n : Nat) :
    takeDelivery (some n) s = advanceDelivery n (beginDelivery s) := if_pos h

/-- A delivery that is begun is taken from where it stands, so that beginning it first changes nothing. -/
theorem takeDelivery_beginDelivery {s b : State} (h : s.oae.closes = []) (hbegin : beginDelivery s = b) (hcloses : b.oae.closes = [])
    (hagain : beginDelivery b = b) (n : Option Nat) : takeDelivery n s = takeDelivery n b := by
  cases n with
  | none => rw [takeDelivery_none h, takeDelivery_none hcloses, hbegin, hagain]
  | some n => rw [takeDelivery_some h, takeDelivery_some hcloses, hbegin, hagain]

theorem takeDelivery_of_nothing {s : State} (hnone : s.oae.taking = none) (hd : s.oae.deliveries = []) (n : Option Nat) :
    takeDelivery n s = s := by
  by_cases h : s.oae.closes = []
  · have hbegin := beginDelivery_of_nothing hnone hd
    cases n with
    | none => rw [takeDelivery_none h, hbegin, endDelivery_of_none hnone]
    | some n => rw [takeDelivery_some h, hbegin, advanceDelivery, hnone]
  · exact takeDelivery_of_closes h n

/-- Settles O25: the oldest delivery is begun where none is, and then taken to its end or over some of its records. -/
theorem deliveryIsTakenWhole : Obligations.DeliveryIsTakenWhole := by
  refine ⟨?begin, fun s k hcloses hk => ⟨?whole, ?more, ?part⟩, ?nothing, fun _ _ _ _ _ => ⟨rfl, rfl⟩⟩
  case begin =>
    rintro s b d rest n hcloses hnone hd rfl
    exact congrArg Host.Outcome.next
      (takeDelivery_beginDelivery hcloses (beginDelivery_of_waiting hnone hd) hcloses (beginDelivery_of_begun rfl) n)
  case whole =>
    refine ⟨_, rfl, ?_⟩
    rw [takeDelivery_none hcloses, beginDelivery_of_begun hk]
    exact deliveryEnded_endDelivery s
  case more =>
    intro n hn
    refine congrArg Host.Outcome.next ?_
    rw [takeDelivery_some hcloses, takeDelivery_none hcloses, beginDelivery_of_begun hk, advanceDelivery_of_le hk hn,
      endDelivery_of_some hk]
  case part =>
    intro n hn
    refine ⟨_, _, rfl, recordsTaken_takeRecords k.head k.stamp (k.rest.take n) s, congrArg Host.Outcome.next ?_⟩
    rw [takeDelivery_some hcloses, beginDelivery_of_begun hk, advanceDelivery_of_lt hk hn]
    rfl
  case nothing =>
    rintro s n (hcloses | ⟨hnone, hd⟩)
    · exact congrArg Host.Outcome.next (takeDelivery_of_closes hcloses n)
    · exact congrArg Host.Outcome.next (takeDelivery_of_nothing hnone hd n)

end Sys2Proof.Stated
end

section

/-! ### How a phase of the round gives way, as the statements say it -/

namespace Sys2Proof.Stated

open Sys2Proof.Machine

theorem pollDue_iff_PollDue (m : MeterLink) (a : Nat) : pollDue m a = true ↔ PollDue m a := pollDue_iff m a

/-- The poll phase with no exchange open walks on from where it stands. -/
theorem walkFrom_advancePhase {m : MeterLink} (hp : m.phase = .poll) (hw : m.wait = none) (hr : m.repollDue = none) :
    WalkFrom m.pollPos (advancePhase m) := by
  obtain ⟨hpos, hpoll, hprobe, hidle, hswitch⟩ := advancePhase_of_poll hp hw hr
  have hdue : ∀ a, PollDue (advancePhase m) a ↔ pollDue m a = true := fun a => by
    rw [pollDue_iff_PollDue, advancePhase_eq m]
    rfl
  have hheads : (advancePhase m).heads = m.heads := by rw [advancePhase_eq]
  refine ⟨hpos, ?_, ?_, hidle, hswitch⟩
  · simp only [hpoll, hdue]
  · simp only [hprobe, hdue, hheads, Bool.not_eq_true]

/-- From the poll phase the round goes on to the probe phase or to its end, and the walk keeps its place. -/
theorem advancePhase_after_poll {m : MeterLink} (hp : m.phase = .poll) :
    (advancePhase m).pollPos = m.pollPos ∧ (advancePhase m).phase ≠ .switch ∧ (advancePhase m).phase ≠ .idle := by
  by_cases hbusy : m.wait ≠ none ∨ m.repollDue ≠ none
  · rw [advancePhase_of_busy (.inl ⟨hp, hbusy⟩), hp]
    exact ⟨rfl, nofun, nofun⟩
  · obtain ⟨hw, hr⟩ := not_or.1 hbusy
    obtain ⟨hpos, -, -, hidle, hswitch⟩ := advancePhase_of_poll hp (not_not.1 hw) (not_not.1 hr)
    exact ⟨hpos, hswitch, hidle⟩

/-- A switch phase that is left: the poll walk begins at address 1. -/
def SwitchLeft (m m' : MeterLink) : Prop :=
  m'.pollPos = 1 ∧ m'.phase ≠ .switch ∧ m'.phase ≠ .idle ∧ (m.wait = none → m.repollDue = none → WalkFrom 1 m')

theorem switchLeft_advancePhase {m : MeterLink} (hp : m.phase = .switch)
    (hsent : sendableFrom m.heads m.switchQueue m.walkPos = none) : SwitchLeft m (advancePhase m) := by
  rw [advancePhase_of_sent hsent hp]
  obtain ⟨hpos, hswitch, hidle⟩ := advancePhase_after_poll (m := { m with phase := .poll, pollPos := 1 }) rfl
  exact ⟨hpos, hswitch, hidle, fun hw hr => walkFrom_advancePhase (m := { m with phase := .poll, pollPos := 1 }) rfl hw hr⟩

/-- The switch phase lasts while the walk has an entry before it whose head is PRESENT, and then nothing moves; else it is left. -/
theorem advancePhase_of_switch {m : MeterLink} (hp : m.phase = .switch) :
    ((advancePhase m).phase = .switch ↔
        ∃ e ∈ m.switchQueue.drop m.walkPos, (tableGet HeadEntry.initial m.heads e.addr.head).state = .present) ∧
      ((advancePhase m).phase = .switch → advancePhase m = m) ∧ ((advancePhase m).phase ≠ .switch → SwitchLeft m (advancePhase m)) := by
  by_cases hsent : sendableFrom m.heads m.switchQueue m.walkPos = none
  · have hleft := switchLeft_advancePhase hp hsent
    have hnone := (sendableFrom_eq_none_iff _ _ _).1 hsent
    refine ⟨⟨fun h => absurd h hleft.2.1, fun ⟨e, he, hhead⟩ => absurd hhead (hnone e he)⟩, fun h => absurd h hleft.2.1, fun _ => hleft⟩
  · rw [advancePhase_of_sendable hsent hp]
    have hsome := mt (sendableFrom_eq_none_iff _ _ _).2 hsent
    push Not at hsome
    exact ⟨⟨fun _ => hsome, fun _ => hp⟩, fun _ => rfl, fun h => absurd hp h⟩

end Sys2Proof.Stated
end

section

/-! ### The tick, the cadence expiry and CONFIGURE-UNIT -/

namespace Sys2Proof.Stated

open Sys2Proof.Machine

section Tick

variable {ct : CadenceTimer} {c : Nat}

theorem tick_of_above (hrun : ct.runState = .running) (hc : ct.countdown = some c) (h : 1 < c) :
    ct.tick = { ct with prescaler := 0, countdown := some (c - 1) } := by
  rw [CadenceTimer.tick, hrun, hc]
  exact if_neg (Nat.not_le.2 h)

theorem tick_of_reached (hrun : ct.runState = .running) (hc : ct.countdown = some c) (h : c ≤ 1) :
    ct.tick = { ct with prescaler := 0, countdown := some (ct.config.il * 100), expiriesDue := ct.expiriesDue + 1 } := by
  rw [CadenceTimer.tick, hrun, hc]
  exact if_pos h

theorem tick_of_still (h : ct.runState ≠ .running ∨ ct.countdown = none) : ct.tick = { ct with prescaler := 0 } := by
  unfold CadenceTimer.tick
  split
  · next hrun hc => simp [hrun, hc] at h
  · rfl

/-- A tick writes the prescaler, the countdown and the expiries that are due. -/
theorem tick_eq (ct : CadenceTimer) :
    ct.tick = { ct with prescaler := 0, countdown := ct.tick.countdown, expiriesDue := ct.tick.expiriesDue } := by
  unfold CadenceTimer.tick
  split
  · split_ifs <;> rfl
  · rfl

end Tick

theorem lineIdle_iff (p : TrunkPort) : p.lineIdle = true ↔ p.sending = .nothing ∧ p.rx = none := decide_eq_true_iff

/-- Settles O9: each block counts by itself. -/
theorem tickCountsInEveryBlock : Obligations.TickCountsInEveryBlock := by
  intro s
  refine ⟨_, rfl, rfl, tick_eq s.ct, fun c hrun hc h => ?above, fun c hrun hc h => ?reached, fun h => ?still, rfl, fun h => ?noWait,
    fun w h => ?wait, rfl, fun h => ?noWindow, fun w h => ?window, fun hs hr => ?idle, fun h => ?busy⟩
  case above => simp [tick_of_above hrun hc h]
  case reached => simp [tick_of_reached hrun hc h]
  case still => simp [tick_of_still h]
  case noWait => simp [MeterLink.tick, h]
  case wait => simp [MeterLink.tick, h, Config.replyWaitTicks]
  case noWindow => simp [TrunkPort.tick, h]
  case window => simp [TrunkPort.tick, h, Config.replyWindowTicks]
  case idle => exact if_pos ((lineIdle_iff s.tp).2 ⟨hs, hr⟩)
  case busy =>
    have hno : ¬ s.tp.lineIdle = true := fun hidle => by
      obtain ⟨hs, hr⟩ := (lineIdle_iff s.tp).1 hidle
      exact h.elim (absurd hs) (absurd hr)
    exact if_neg hno

/-- The state in which an expiry is taken: the delivery being taken is at its end when a collecting period closes. -/
def expiring (s : State) : State := if s.ct.collectingOpen then endDelivery s else s

theorem writesDelivery_expiring (s : State) : WritesDelivery s (expiring s) := by
  unfold expiring
  split_ifs
  · exact writesDelivery_endDelivery s
  · rfl

theorem cadenceExpiry_eq (s : State) :
    cadenceExpiry s =
      { expiring s with
        ct := { s.ct with n := s.ct.n + 1, collectingOpen := true, expiriesDue := s.ct.expiriesDue - 1 }
        oae := { (expiring s).oae with
          closes := if s.ct.collectingOpen then s.oae.closes ++ [{ period := s.ct.n - 1, feeds := none }] else s.oae.closes }
        mlc := { s.mlc with syncDue := some (s.ct.n + 1), roundEndDue := true } } := by
  have hwrites := writesDelivery_expiring s
  unfold WritesDelivery at hwrites
  have hct : (expiring s).ct = s.ct := by rw [hwrites]
  have hmlc : (expiring s).mlc = s.mlc := by rw [hwrites]
  have hcloses : (expiring s).oae.closes = s.oae.closes := by rw [hwrites]
  unfold cadenceExpiry
  simp only [State.onOae, State.onCt, State.onMlc]
  rw [← expiring, hct, hmlc, hcloses]
  rfl

/-- Settles O10: the expiry as `cadenceExpiry_eq` writes it, after the delivery that a close ends. -/
theorem cadenceExpiryAdvancesThePeriod : Obligations.CadenceExpiryAdvancesThePeriod := by
  intro s
  refine ⟨fun hrun hdue => ⟨expiring s, fun hopen => ?ended, fun hclosed => ?same, ?next⟩, fun hno => ?nothing⟩
  case ended =>
    rw [expiring, if_pos hopen]
    exact deliveryEnded_endDelivery s
  case same => rw [expiring, if_neg (by simp [hclosed])]
  case next => exact congrArg Host.Outcome.next ((if_pos ⟨hrun, hdue⟩).trans (cadenceExpiry_eq s))
  case nothing =>
    have hnot : ¬ (s.ct.runState = .running ∧ 0 < s.ct.expiriesDue) := fun ⟨hrun, hdue⟩ => hno.elim (absurd hrun) hdue.ne'
    exact congrArg Host.Outcome.next (if_neg hnot)

theorem configInRange_iff (f : UnitFields) : configInRange f = true ↔ ConfigRanges f := by
  simp only [configInRange, ConfigRanges, Bool.and_eq_true, decide_eq_true_eq, and_assoc]

theorem ownConfigureUnit_of_not_ranges {f : UnitFields} (h : ¬ ConfigRanges f) (s : State) :
    ownConfigureUnit f s = (s, .plain .invalidParameter) := by
  rw [← configInRange_iff, Bool.not_eq_true] at h
  exact if_pos h

theorem ownConfigureUnit_of_ranges {f : UnitFields} (h : ConfigRanges f) (s : State) :
    ownConfigureUnit f s =
      if s.ct.runState = .running then (s, .plain .incorrectState)
      else (s.onCt fun ct => { ct with config := configOf f, configured := true }, .done []) := by
  rw [← configInRange_iff] at h
  exact if_neg (by simp [h])

/-- Settles O11: the two refusals are CT's two checks. -/
theorem configureUnitReplacesTheRecord : Obligations.ConfigureUnitReplacesTheRecord := by
  intro tag f s h
  have hexec : exec (.configureUnit tag f) s = .next (takeOrder (.configureUnit tag f) tag 0x10 (ownConfigureUnit f) s) := rfl
  refine ⟨fun hbad => ?ranges, fun hr hrun => ?running, fun hr hrun => ?done⟩
  case ranges => exact refused_of_owner hexec h (ownConfigureUnit_of_not_ranges hbad s)
  case running => exact refused_of_owner hexec h ((ownConfigureUnit_of_ranges hr s).trans (if_pos hrun))
  case done => exact exec_order_of_atOwner hexec h ((ownConfigureUnit_of_ranges hr s).trans (if_neg hrun))

end Sys2Proof.Stated
end

section

/-! ### HALT -/

namespace Sys2Proof.Stated

open Sys2Proof.Machine

/-- What a miss writes: MLC and, with HEAD_LOST, the unit's cause set. -/
def WritesMlcNu (s t : State) : Prop := t = { s with mlc := t.mlc, nu := t.nu }

theorem WritesMlcNu.refl (s : State) : WritesMlcNu s s := rfl

theorem WritesMlcNu.trans {s t u : State} (h : WritesMlcNu s t) (g : WritesMlcNu t u) : WritesMlcNu s u := by
  unfold WritesMlcNu at *
  rw [g, h]

theorem writesMlcNu_missHead (s : State) (a : Nat) : WritesMlcNu s (missHead s a) := by
  unfold missHead
  dsimp only
  split_ifs <;> rfl

theorem writesMlcNu_missHeads (l : List Nat) (s : State) : WritesMlcNu s (l.foldl missHead s) :=
  foldl_related (R := WritesMlcNu) WritesMlcNu.refl WritesMlcNu.trans writesMlcNu_missHead l s

/-- The state that FM judges at the end of a round. -/
def roundClosed (s : State) : State := ((missedAtEnd s.mlc).foldl missHead s).onMlc closeRound

theorem writesMlcNu_roundClosed (s : State) : WritesMlcNu s (roundClosed s) :=
  (writesMlcNu_missHeads (missedAtEnd s.mlc) s).trans rfl

theorem endRound_eq (s : State) : endRound s = handFeeds (judgeTally s.mlc.tally (roundClosed s)) := rfl

/-- What the end of a round writes of OAE: each close that waits carries the feed states. -/
theorem endRound_oae (s : State) :
    (endRound s).oae = { s.oae with closes := s.oae.closes.map (WaitingClose.judged (judgeTally s.mlc.tally (roundClosed s)).fm.states) } := by
  have hjudged : (judgeTally s.mlc.tally (roundClosed s)).oae = (roundClosed s).oae := by rw [judgeTally_writes_fm_nu]
  have hclosed : (roundClosed s).oae = s.oae := by rw [writesMlcNu_roundClosed s]
  rw [endRound_eq, handFeeds, State.onOae_oae, hjudged, hclosed]

/-- A close is taken once for each member of a list, whatever the members are. -/
theorem closesTaken_foldl {l l' : List WaitingClose} (h : l.length = l'.length) (s : State) :
    ClosesTaken l s (l'.foldl (fun st _ => closePeriod st) s) := by
  induction l generalizing l' s with
  | nil =>
    rw [List.length_eq_zero_iff.1 h.symm]
    rfl
  | cons w l ih =>
    obtain _ | ⟨w', l'⟩ := l'
    · cases h
    · exact ⟨closePeriod s, rfl, ih (Nat.succ.inj h) (closePeriod s)⟩

/-- The state after a round end that waits. -/
def roundEnded (s : State) : State := if s.mlc.roundEndDue then endRound s else s

theorem length_closes_roundEnded (s : State) : (roundEnded s).oae.closes.length = s.oae.closes.length := by
  unfold roundEnded
  split_ifs
  · rw [endRound_oae, List.length_map]
  · rfl

theorem sameLine_of_line_eq {p q : TrunkPort} (h : q.line = p.line) : SameLine p q := by
  have hq : q = { q.line with
      completions := q.completions, summaries := q.summaries, forwards := q.forwards, copies := q.copies, dropCount := q.dropCount } := rfl
  rw [h] at hq
  exact hq

/-- Zeroing keeps the rest of each account. -/
theorem account_zeroCollecting (s : State) (k : Nat) :
    (zeroCollecting s).account k = { s.account k with accA := 0, accB := 0, incomplete := false } :=
  tableGet_tableMap Account.initial (fun _ a => { a with accA := 0, accB := 0, incomplete := false }) s.oae.accounts k rfl

/-- HALT acted on is the halt the statements describe. -/
theorem halted_haltUnit (s : State) : Halted s (haltUnit s) := by
  obtain ⟨hpending, hct, hline⟩ := frame_of_keeps (s := s) (t := endDelivery (finishExpiry s)) fun h => h.finishExpiry.endDelivery
  have haccount : ∀ k, (haltUnit s).account k =
      { (endDelivery (finishExpiry s)).account k with accA := 0, accB := 0, incomplete := false } := fun k => account_zeroCollecting _ k
  have hcloses : ClosesTaken s.oae.closes (roundEnded s) (finishExpiry s) := closesTaken_foldl (length_closes_roundEnded s).symm _
  refine ⟨congrArg CadenceTimer.halt hct, hpending, rfl, rfl, rfl, rfl, rfl, rfl, sameLine_of_line_eq hline, endDelivery_taking _,
    fun k => ?_, roundEnded s, finishExpiry s, endDelivery (finishExpiry s), rfl, hcloses, deliveryEnded_endDelivery _, rfl, haccount⟩
  rw [haccount k]
  exact ⟨rfl, rfl, rfl⟩

theorem actHalt_of_running {s : State} (h : s.ct.runState = .running) : actHalt s = haltUnit s := if_pos h

theorem actHalt_of_not_running {s : State} (h : s.ct.runState ≠ .running) : actHalt s = s := if_neg h

theorem withOwner_eq_false_iff (s : State) : s.tp.path.withOwner = false ↔ ¬ SomeAtOwner s := by
  rw [← Bool.not_eq_true, OrderPath.withOwner_iff]
  rfl

/-- A broadcast order with no unicast order at its owner is handed over. -/
theorem broadcastFrame_of_free {s : State} (c : Instr) (hsend : s.tp.sending = .nothing) (h : ¬ SomeAtOwner s) :
    broadcastFrame c s = handOver (heardBroadcast s) c := by
  rw [broadcastFrame, if_pos hsend]
  have hfree : (closeWindow (frameHeard s)).tp.path.withOwner = false := (withOwner_eq_false_iff s).2 h
  rw [arriveBroadcast, hfree]
  rfl

/-- Settles O13: HALT's own order and the broadcast both act by `haltUnit`, which is what the statements call halted. -/
theorem haltStopsTheCadence : Obligations.HaltStopsTheCadence := by
  refine ⟨fun tag s h => ?order, fun s hsend hfree => ?broadcast⟩
  case order =>
    have hexec : exec (.halt tag) s = .next (takeOrder (.halt tag) tag 0x12 ownHalt s) := rfl
    refine ⟨fun hrun => refused_of_owner hexec h (if_neg hrun), fun hrun => ?_⟩
    exact ⟨haltUnit s, halted_haltUnit s, exec_order_of_atOwner hexec h (if_pos hrun)⟩
  case broadcast =>
    have hexec : exec .broadcastHalt s = .next (actHalt (heardBroadcast s)) :=
      congrArg Host.Outcome.next (broadcastFrame_of_free .broadcastHalt hsend hfree)
    rw [hexec]
    refine ⟨fun hrun => ?_, fun hrun => ?_⟩
    · exact congrArg Host.Outcome.next (actHalt_of_not_running (s := heardBroadcast s) hrun)
    · exact ⟨_, halted_haltUnit _, congrArg Host.Outcome.next (actHalt_of_running hrun)⟩

end Sys2Proof.Stated
end

section

/-! ### The resets and the broadcast orders -/

namespace Sys2Proof.Stated

open Sys2Proof.Machine

/-! ### FULL and ACCOUNTS -/

theorem fullReset_eq_fullValues (s : State) : fullReset s = fullValues s := rfl

section Accounts

variable (s : State)

/-- MLC at an ACCOUNTS reset before the switch phase it leaves. -/
def linkCleared (m : MeterLink) : MeterLink :=
  { m with heads := tableMap HeadEntry.initial (fun _ e => e.accounts) m.heads, switchQueue := [], walkPos := 0 }

theorem mlc_accountsReset : (accountsReset s).mlc = leaveSwitchPhase (linkCleared s.mlc) := rfl

theorem heads_accountsReset : (accountsReset s).mlc.heads = (linkCleared s.mlc).heads := by
  rw [mlc_accountsReset, leaveSwitchPhase_eq]

theorem head_accountsReset (a : Nat) : (accountsReset s).head a = { s.head a with errorCount := 0 } := by
  rw [State.head, heads_accountsReset]
  exact tableGet_tableMap HeadEntry.initial (fun _ e => e.accounts) s.mlc.heads a rfl

theorem outlet_accountsReset (k : Nat) :
    (accountsReset s).outlet k = { s.outlet k with discontinuities := 0, shedMark := false, completionOwed := none } :=
  tableGet_tableMap Outlet.initial (fun _ o => o.accounts) s.ot.outlets k rfl

theorem account_accountsReset (k : Nat) : (accountsReset s).account k = { s.account k with lastIncomplete := false } :=
  tableGet_tableMap Account.initial (fun _ a => { a with lastIncomplete := false }) s.oae.accounts k rfl

theorem tenant_accountsReset (k : Nat) : (accountsReset s).tenant k = (s.tenant k).accounts :=
  tableGet_tableMap Tenant.initial (fun _ r => r.accounts) s.tl.tenants k rfl

theorem causes_accountsReset (k : Nat) : (accountsReset s).causes k = { s.causes k with latched := 0, unreported := 0 } :=
  tableGet_tableMap CauseSet.initial (fun _ c => { c with latched := 0, unreported := 0 }) s.nu.tenants k rfl

theorem queue_accountsReset :
    (accountsReset s).nu.queue = if s.nu.unit.unreported &&& s.nu.unit.mask = 0 then [] else [0] := by
  have hqueue : (accountsReset s).nu.queue = requeue 0 s.nu.unit [] := rfl
  rw [hqueue, requeue_eq_requeued]
  simp [requeued]

theorem mlc_accountsReset_writes :
    (accountsReset s).mlc =
      { s.mlc with
        heads := (accountsReset s).mlc.heads, switchQueue := [], walkPos := 0
        phase := (accountsReset s).mlc.phase, pollPos := (accountsReset s).mlc.pollPos } := by
  rw [heads_accountsReset]
  exact leaveSwitchPhase_eq (linkCleared s.mlc)

theorem mlc_accountsReset_of_switch (h : s.mlc.phase = .switch) : SwitchLeft (linkCleared s.mlc) (accountsReset s).mlc := by
  have hphase : (linkCleared s.mlc).phase = .switch := h
  rw [mlc_accountsReset, leaveSwitchPhase, if_pos hphase]
  exact switchLeft_advancePhase hphase rfl

theorem keptInHand_of_not_notice {f : Option UpFrame} (h : ∀ n, f ≠ some (.notice n)) : keptInHand f = none := by
  unfold keptInHand
  split
  · next n => exact absurd rfl (h n)
  · rfl

theorem accountsValues_accountsReset : AccountsValues s (accountsReset s) := by
  refine ⟨rfl, rfl, rfl, rfl, head_accountsReset s, mlc_accountsReset_writes s, fun hphase => ?kept, fun hphase => ?left, outlet_accountsReset s, rfl,
    rfl, account_accountsReset s, rfl, rfl, rfl, rfl, tenant_accountsReset s, rfl, rfl, causes_accountsReset s, queue_accountsReset s, rfl,
    fun n hn => ?notice, fun hno => ?discarded⟩
  case kept =>
    have hmlc : (accountsReset s).mlc = linkCleared s.mlc := leaveSwitchPhase_of_ne (m := linkCleared s.mlc) hphase
    rw [hmlc]
    exact ⟨rfl, rfl⟩
  case left =>
    obtain ⟨hpos, hswitch, hidle, hwalk⟩ := mlc_accountsReset_of_switch s hphase
    exact ⟨hpos, hswitch, hidle, hwalk⟩
  case notice => simp [accountsReset, TrunkPort.accounts, hn, keptInHand]
  case discarded => simp [accountsReset, TrunkPort.accounts, keptInHand_of_not_notice hno]

end Accounts

theorem endTransmission_of_reset {s : State} {k : ResetKind} (hsend : s.tp.sending = .reply) (hreset : s.tp.reset = some k) :
    endTransmission s = resetUnit k { s with tp := replySent s.tp } := by
  unfold endTransmission
  rw [hsend, hreset]
  have htp : s.tp.transmitEnd = replySent s.tp := by rw [TrunkPort.transmitEnd, hsend]; rfl
  simp only [State.onTp, htp]

theorem answeringReset_iff (p : TrunkPort) (k : ResetKind) : p.answeringReset k = true ↔ p.sending = .reply ∧ p.reset = some k :=
  decide_eq_true_iff

theorem not_answeringReset {p : TrunkPort} {k : ResetKind} (h : p.sending ≠ .reply ∨ p.reset ≠ some k) : ¬ p.answeringReset k = true := by
  rw [answeringReset_iff, not_and_or]
  exact h

/-- Settles O5: the reply ends, and the reset that waited for it is `fullReset`. -/
theorem fullResetReturnsTheFullValues : Obligations.FullResetReturnsTheFullValues := by
  intro s
  refine ⟨fun hsend hreset => ?ends, fun hno => congrArg Host.Outcome.next (if_neg (not_answeringReset hno))⟩
  have hend := endTransmission_of_reset hsend hreset
  have hpos := (answeringReset_iff s.tp .full).2 ⟨hsend, hreset⟩
  exact ⟨congrArg Host.Outcome.next hend, congrArg Host.Outcome.next ((if_pos hpos).trans hend)⟩

/-- Settles O6: the reply ends, and the reset that waited for it is `accountsReset`. -/
theorem accountsResetKeepsTheBindings : Obligations.AccountsResetKeepsTheBindings := by
  intro s
  refine ⟨fun hsend hreset => ?ends, fun hno => congrArg Host.Outcome.next (if_neg (not_answeringReset hno))⟩
  have hend := endTransmission_of_reset hsend hreset
  have hpos := (answeringReset_iff s.tp .accounts).2 ⟨hsend, hreset⟩
  exact ⟨_, accountsValues_accountsReset _, congrArg Host.Outcome.next hend, congrArg Host.Outcome.next ((if_pos hpos).trans hend)⟩

/-! ### RESET-UNIT -/

theorem resetOption_of_ne {option : Nat} (hfull : option ≠ 1) (haccounts : option ≠ 2) : resetOption option = none := by
  rw [resetOption, if_neg hfull, if_neg haccounts]

theorem resetLocked_full_iff (s : State) : s.resetLocked .full = true ↔ s.tp.lockMap ≠ 0 ∧ s.tp.service = false := by
  simp [State.resetLocked]

theorem not_resetLocked_full {s : State} (h : s.tp.lockMap = 0 ∨ s.tp.service = true) : ¬ s.resetLocked .full = true := by
  rw [resetLocked_full_iff]
  rintro ⟨hlock, hservice⟩
  exact h.elim hlock fun hset => by rw [hservice] at hset; cases hset

/-- Settles O7: the option is checked, then the lock for FULL; the accepted reset is noted in TP. -/
theorem resetUnitOrder : Obligations.ResetUnitOrder := by
  intro tag option s h
  have hexec : exec (.resetUnit tag option) s = .next (takeOrder (.resetUnit tag option) tag 0x02 (ownResetUnit option) s) := rfl
  refine ⟨fun hfull haccounts => ?bad, fun hfull hlock hservice => ?locked, fun hfull hfree => ?full, fun haccounts => ?accounts⟩
  case bad =>
    refine refused_of_owner hexec h ?_
    rw [ownResetUnit, resetOption_of_ne hfull haccounts]
  case locked =>
    subst hfull
    exact refused_of_owner hexec h (if_pos ((resetLocked_full_iff s).2 ⟨hlock, hservice⟩))
  case full =>
    subst hfull
    exact exec_order_of_atOwner hexec h (if_neg (not_resetLocked_full hfree))
  case accounts =>
    subst haccounts
    exact exec_order_of_atOwner hexec h rfl

/-! ### Broadcast orders -/

theorem actResetUnit_of_not {option : Nat} {s : State}
    (h : option ≠ 1 ∧ option ≠ 2 ∨ option = 1 ∧ s.tp.lockMap ≠ 0 ∧ s.tp.service = false) : actResetUnit option s = s := by
  rcases h with ⟨hfull, haccounts⟩ | ⟨rfl, hlocked⟩
  · rw [actResetUnit, resetOption_of_ne hfull haccounts]
  · exact if_pos ((resetLocked_full_iff s).2 hlocked)

/-- An order handed over acts as the statements say. -/
theorem handed_handOver (c : Instr) (s : State) : Handed c s (handOver s c) := by
  unfold Handed
  split
  · exact ⟨fun h => actHalt_of_not_running h, fun h => by
      have hact : handOver s .broadcastHalt = haltUnit s := actHalt_of_running h
      rw [hact]
      exact halted_haltUnit s⟩
  · refine ⟨?_, ?_, fun h => actResetUnit_of_not h⟩
    · rintro rfl hfree
      exact if_neg (not_resetLocked_full hfree)
    · rintro rfl
      exact accountsValues_accountsReset s
  · next hhalt hreset =>
    unfold handOver
    split
    · exact absurd rfl hhalt
    · exact absurd rfl (hreset _)
    · rfl

theorem handedInTurn_foldl (l : List Instr) (s : State) : HandedInTurn l s (l.foldl handOver s) := by
  induction l generalizing s with
  | nil => rfl
  | cons c l ih => exact ⟨handOver s c, handed_handOver c s, ih (handOver s c)⟩

theorem exec_broadcast {c : Instr} (h : c = .broadcastHalt ∨ ∃ o, c = .broadcastResetUnit o) (s : State) :
    exec c s = .next (broadcastFrame c s) := by
  rcases h with rfl | ⟨o, rfl⟩ <;> rfl

theorem broadcastFrame_of_owner {s : State} (c : Instr) (hsend : s.tp.sending = .nothing) (h : SomeAtOwner s) :
    broadcastFrame c s =
      { heardBroadcast s with tp := { (heardBroadcast s).tp with broadcasts := s.tp.broadcasts ++ [c] } } := by
  have howner : (closeWindow (frameHeard s)).tp.path.withOwner = true := OrderPath.withOwner_iff.2 h
  rw [broadcastFrame, if_pos hsend, arriveBroadcast, if_pos howner]
  rfl

/-- Settles O8: what the frame of a broadcast order meets, and what the order does once handed over. -/
theorem broadcastOrdersActOrWait : Obligations.BroadcastOrdersActOrWait := by
  intro c s hc
  rw [exec_broadcast hc]
  refine ⟨fun hsend => congrArg Host.Outcome.next (if_neg hsend), fun hsend hfree => ?acts, fun hsend howner => ?waits⟩
  case acts =>
    rw [broadcastFrame_of_free c hsend hfree]
    exact ⟨_, handed_handOver c _, rfl⟩
  case waits => exact congrArg Host.Outcome.next (broadcastFrame_of_owner c hsend howner)

/-! ### An order command at the order path -/

section Path

variable {c : Instr} {s : State} {tag : Byte} {code : Nat} {owner : State → State × Answer}

theorem takeOrder_of_owner (h : s.tp.path = .atOwner c) : takeOrder c tag code owner s = answerOrder tag code owner s := if_pos h

theorem takeOrder_of_sending (hsend : s.tp.sending ≠ .nothing) (h : s.tp.path ≠ .atOwner c) : takeOrder c tag code owner s = s := by
  rw [takeOrder, if_neg h, if_pos hsend]

theorem takeOrder_of_free (hsend : s.tp.sending = .nothing) (hfree : s.tp.path = .free) :
    takeOrder c tag code owner s = answerOrder tag code owner { s with tp := heardOrder true (.atOwner c) s.tp } := by
  have hpath : s.tp.path ≠ .atOwner c := by rw [hfree]; nofun
  rw [takeOrder, if_neg hpath, if_neg (not_not.2 hsend), if_pos hfree, orderFrameHeard, hfree]
  rfl

theorem takeOrder_of_busy (hsend : s.tp.sending = .nothing) (hbusy : s.tp.path ≠ .free) (hpath : s.tp.path ≠ .atOwner c) :
    takeOrder c tag code owner s = { s with tp := heardOrder false s.tp.path s.tp } := by
  rw [takeOrder, if_neg hpath, if_neg (not_not.2 hsend), if_neg hbusy, orderFrameHeard, decide_eq_false hbusy]
  rfl

/-- The orders that wait are handed over after the answer. -/
theorem answerOrder_eq_foldl (s : State) :
    answerOrder tag code owner s =
      s.tp.broadcasts.foldl handOver (answerOrder tag code owner { s with tp := { s.tp with broadcasts := [] } }) := rfl

end Path

/-- Settles O3: by where the order path stands; each of the 21 orders is taken by `takeOrder` with its owner. -/
theorem orderCommandMeetsThePath : Obligations.OrderCommandMeetsThePath := by
  intro c s hc
  obtain ⟨tag, code, owner, ho⟩ := exists_orderOf hc
  refine ⟨fun hsend hfree => ?free, fun hsend hbusy hpath => ?busy, fun hsend hpath => ?sending, fun hpath => ?owner⟩
  case free =>
    have hown : ({ s with tp := heardOrder true (.atOwner c) s.tp } : State).tp.path = .atOwner c := rfl
    rw [ho.exec, ho.exec, takeOrder_of_free hsend hfree, takeOrder_of_owner hown]
  case busy => rw [ho.exec, takeOrder_of_busy hsend hbusy hpath]
  case sending => rw [ho.exec, takeOrder_of_sending hsend hpath]
  case owner =>
    have hown : ({ s with tp := { s.tp with broadcasts := [] } } : State).tp.path = .atOwner c := hpath
    refine ⟨_, _, ho.exec _, handedInTurn_foldl s.tp.broadcasts _, ?_⟩
    rw [ho.exec, takeOrder_of_owner hpath, takeOrder_of_owner hown, answerOrder_eq_foldl]

end Sys2Proof.Stated
end

section

/-! ### SYNC, SWITCH, POLL and PROBE -/

namespace Sys2Proof.Stated

open Sys2Proof.Machine

/-! ### SYNC -/

/-- MLC as a round begins, before a phase with nothing to do gives way. -/
def roundOpened (n : Period) (m : MeterLink) : MeterLink :=
  { m with
    phase := .switch, walkPos := 0, pollPos := 1, repollDue := none, wait := none, marks := [], tally := FeedTally.initial
    syncDue := none, lastSent := syncFrame n }

theorem beginRound_eq (n : Period) (m : MeterLink) : beginRound n m = advancePhase (roundOpened n m) := rfl

section Sync

variable (n : Period) (m : MeterLink)

theorem phase_beginRound_eq_switch_iff :
    (beginRound n m).phase = .switch ↔ ∃ e ∈ m.switchQueue, (tableGet HeadEntry.initial m.heads e.addr.head).state = .present :=
  (advancePhase_of_switch (m := roundOpened n m) rfl).1

theorem walkFrom_beginRound (h : (beginRound n m).phase ≠ .switch) : WalkFrom 1 (beginRound n m) :=
  ((advancePhase_of_switch (m := roundOpened n m) rfl).2.2 h).2.2.2 rfl rfl

theorem pollPos_beginRound : (beginRound n m).pollPos = 1 := by
  obtain ⟨-, hstay, hleft⟩ := advancePhase_of_switch (m := roundOpened n m) rfl
  by_cases h : (advancePhase (roundOpened n m)).phase = .switch
  · rw [beginRound_eq, hstay h]
    rfl
  · exact (hleft h).1

theorem phase_beginRound_ne_idle : (beginRound n m).phase ≠ .idle := by
  by_cases h : (beginRound n m).phase = .switch
  · rw [h]
    nofun
  · exact (walkFrom_beginRound n m h).2.2.2.1

/-- With nothing reached an address is to be polled when it is not ABSENT. -/
theorem pollDue_beginRound (a : Nat) : PollDue (beginRound n m) a ↔ (tableGet HeadEntry.initial m.heads a).state ≠ .absent := by
  rw [beginRound_eq, advancePhase_eq]
  exact and_iff_left nofun

theorem phase_beginRound_eq_poll_iff :
    (beginRound n m).phase = .poll ↔
      (∀ e ∈ m.switchQueue, (tableGet HeadEntry.initial m.heads e.addr.head).state ≠ .present) ∧
        ∃ a, 1 ≤ a ∧ a ≤ 32 ∧ (tableGet HeadEntry.initial m.heads a).state ≠ .absent := by
  have hswitch := phase_beginRound_eq_switch_iff n m
  by_cases h : (beginRound n m).phase = .switch
  · obtain ⟨e, he, hhead⟩ := hswitch.1 h
    refine ⟨fun hp => ?_, fun ⟨hnone, _⟩ => absurd hhead (hnone e he)⟩
    rw [h] at hp
    cases hp
  · obtain ⟨-, hpoll, -⟩ := walkFrom_beginRound n m h
    have hnone : ∀ e ∈ m.switchQueue, (tableGet HeadEntry.initial m.heads e.addr.head).state ≠ .present := fun e he hhead =>
      h (hswitch.2 ⟨e, he, hhead⟩)
    simp only [hpoll, pollDue_beginRound]
    exact (and_iff_right hnone).symm

end Sync

/-- Settles O14: the round is opened and its switch phase lasts or gives way. -/
theorem syncBeginsTheRound : Obligations.SyncBeginsTheRound := by
  intro s
  refine ⟨fun n hn hend => ?begins, fun h => ?nothing⟩
  case begins =>
    have hexec : exec .sync s = .next (s.onMlc (beginRound n)) := by
      have hsync : sendSync s = s.onMlc (beginRound n) := by rw [sendSync, hn]; exact if_neg (by simp [hend])
      exact congrArg Host.Outcome.next hsync
    refine ⟨_, hexec, rfl, ?fields, ?frame, phase_beginRound_eq_switch_iff n s.mlc, phase_beginRound_eq_poll_iff n s.mlc,
      walkFrom_beginRound n s.mlc, phase_beginRound_ne_idle n s.mlc⟩
    case fields =>
      have hpos := pollPos_beginRound n s.mlc
      rw [beginRound_eq] at hpos
      rw [State.onMlc_mlc, beginRound_eq, advancePhase_eq, hpos]
      rfl
    case frame =>
      rw [State.onMlc_mlc, beginRound_eq, advancePhase_eq]
      rfl
  case nothing =>
    refine congrArg Host.Outcome.next ?_
    unfold sendSync
    split
    · next n hn => exact if_pos (h.resolve_left (by simp [hn]))
    · rfl

/-! ### SWITCH -/

theorem mayTransmit_iff (m : MeterLink) : m.mayTransmit = true ↔ m.wait = none ∧ m.roundEndDue = false := decide_eq_true_iff

/-- Without a free link or outside its phase a step of the round does nothing. -/
theorem not_phase_and_mayTransmit {m : MeterLink} {p : RoundPhase} (h : m.phase ≠ p ∨ m.wait ≠ none ∨ m.roundEndDue = true) :
    ¬ (m.phase = p ∧ m.mayTransmit = true) := by
  rw [mayTransmit_iff]
  rintro ⟨hphase, hwait, hend⟩
  simp [hphase, hwait, hend] at h

/-- The walk comes first to the first entry past it whose head is PRESENT. -/
theorem sendableFrom_of_split {heads : Table HeadEntry} {passed ahead rest : List SwitchEntry} {e : SwitchEntry}
    (hahead : ∀ x ∈ ahead, (tableGet HeadEntry.initial heads x.addr.head).state ≠ .present)
    (he : (tableGet HeadEntry.initial heads e.addr.head).state = .present) :
    sendableFrom heads (passed ++ ahead ++ e :: rest) passed.length = some (passed ++ ahead).length := by
  have hno : ahead.findIdx? (fun x => decide ((tableGet HeadEntry.initial heads x.addr.head).state = .present)) = none := by
    simpa [List.findIdx?_eq_none_iff] using hahead
  rw [sendableFrom, List.append_assoc, List.drop_left, List.findIdx?_append, hno]
  simp [List.findIdx?_cons, he]

theorem directionByte_eq (d : Direction) : d.byte = if d = .on then 1 else 0 := by cases d <;> rfl

/-- MLC once an entry has been sent, before a phase with nothing left to send gives way. -/
def entrySent (q : List SwitchEntry) (j : Nat) (e : SwitchEntry) (m : MeterLink) : MeterLink :=
  { m with switchQueue := q, walkPos := j, lastSent := switchFrame e }

theorem sendSwitch_of_split {m : MeterLink} {passed ahead rest : List SwitchEntry} {e : SwitchEntry}
    (hq : m.switchQueue = passed ++ ahead ++ e :: rest) (hwalk : m.walkPos = passed.length)
    (hahead : ∀ x ∈ ahead, (tableGet HeadEntry.initial m.heads x.addr.head).state ≠ .present)
    (he : (tableGet HeadEntry.initial m.heads e.addr.head).state = .present) :
    sendSwitch m = advancePhase (entrySent (passed ++ ahead ++ rest) (passed ++ ahead).length e m) := by
  have hget : (passed ++ ahead ++ e :: rest)[(passed ++ ahead).length]? = some e := by
    rw [List.getElem?_append_right le_rfl, Nat.sub_self]
    rfl
  have herase : (passed ++ ahead ++ e :: rest).eraseIdx (passed ++ ahead).length = passed ++ ahead ++ rest := by
    rw [List.eraseIdx_append_of_length_le le_rfl, Nat.sub_self]
    rfl
  unfold sendSwitch
  rw [hq, hwalk, sendableFrom_of_split hahead he]
  dsimp only
  rw [hget, herase]
  rfl

/-! ### Add and withdraw requests -/

theorem addAnswer_of_merged {q : List SwitchEntry} {e : SwitchEntry} (h : ∃ x ∈ q, x.addr = e.addr ∧ x.direction = e.direction) :
    addAnswer q e = .merged := if_pos (by simpa using h)

theorem addAnswer_of_new {q : List SwitchEntry} {e : SwitchEntry} (h : ∀ x ∈ q, ¬ (x.addr = e.addr ∧ x.direction = e.direction)) :
    addAnswer q e = if 16 ≤ q.length then .refused else .taken := if_neg (by simpa using h)

theorem addRequest_of_not_taken {e : SwitchEntry} {s : State} (h : addAnswer s.mlc.switchQueue e ≠ .taken) : addRequest e s = s := by
  unfold addRequest addEntry
  simp only [State.onMlc, if_neg h]

theorem addRequest_of_taken {e : SwitchEntry} {s : State} (h : addAnswer s.mlc.switchQueue e = .taken) :
    addRequest e s = { s with mlc := { s.mlc with switchQueue := s.mlc.switchQueue ++ [e] } } := by
  unfold addRequest addEntry
  simp only [State.onMlc, if_pos h]

/-- An entry of a tenant's withdraw request. -/
def offEntryOf (n : Nat) (e : SwitchEntry) : Bool := decide (e.direction = .off ∧ e.tenant = n)

theorem withdrawRequest_eq (n : Nat) (s : State) :
    withdrawRequest n s = { s with mlc := leaveSwitchPhase (removeEntries (offEntryOf n) s.mlc) } := rfl

theorem offWithdrawn_withdrawRequest (n : Nat) (s : State) : OffWithdrawn n s.mlc (withdrawRequest n s).mlc := by
  have hkeep : (fun e => !offEntryOf n e) = fun e : SwitchEntry => decide (¬ (e.direction = .off ∧ e.tenant = n)) := by
    funext e
    exact (decide_not ..).symm
  rw [withdrawRequest_eq]
  have hrest : ∀ k, leaveSwitchPhase (removeEntries (offEntryOf n) s.mlc) = k → s.mlc.phase ≠ .switch →
      k = removeEntries (offEntryOf n) s.mlc := fun k hk hphase => hk.symm.trans (leaveSwitchPhase_of_ne hphase)
  refine ⟨⟨_, rfl, ?fields⟩, fun hphase => ?same, fun hphase => ?stays, fun hphase hleft => ?left, fun hphase => ?iff⟩
  case fields =>
    rw [← hkeep]
    exact leaveSwitchPhase_eq _
  case same =>
    rw [hrest _ rfl hphase]
    exact ⟨rfl, rfl⟩
  case stays =>
    by_cases hwas : s.mlc.phase = .switch
    · have hadv : leaveSwitchPhase (removeEntries (offEntryOf n) s.mlc) = advancePhase (removeEntries (offEntryOf n) s.mlc) := if_pos hwas
      rw [hadv] at hphase ⊢
      rw [(advancePhase_of_switch (m := removeEntries (offEntryOf n) s.mlc) hwas).2.1 hphase]
      rfl
    · rw [hrest _ rfl hwas]
      rfl
  case left =>
    have hadv : leaveSwitchPhase (removeEntries (offEntryOf n) s.mlc) = advancePhase (removeEntries (offEntryOf n) s.mlc) := if_pos hphase
    rw [hadv] at hleft ⊢
    obtain ⟨hpos, -, -, hwalk⟩ := (advancePhase_of_switch (m := removeEntries (offEntryOf n) s.mlc) hphase).2.2 hleft
    exact ⟨hpos, hwalk⟩
  case iff =>
    have hadv : leaveSwitchPhase (removeEntries (offEntryOf n) s.mlc) = advancePhase (removeEntries (offEntryOf n) s.mlc) := if_pos hphase
    have hiff := (advancePhase_of_switch (m := removeEntries (offEntryOf n) s.mlc) hphase).1
    rw [hadv, hiff, advancePhase_eq]
    rfl

/-- Settles O15: the walk's split of the queue decides what SWITCH sends; the requests are answered by what the queue holds. -/
theorem switchQueueIsServedInOrder : Obligations.SwitchQueueIsServedInOrder := by
  refine ⟨fun s passed ahead e rest hphase hwait hend hq hwalk hahead he => ?sends, fun s h => ?nothing, fun e s => ⟨?merged, ?refused, ?taken⟩,
    fun n s => ⟨rfl, offWithdrawn_withdrawRequest n s⟩⟩
  case sends =>
    have hexec : exec .switch s =
        .next { s with mlc := advancePhase (entrySent (passed ++ ahead ++ rest) (passed ++ ahead).length e s.mlc) } := by
      rw [← sendSwitch_of_split hq hwalk hahead he]
      exact congrArg Host.Outcome.next (if_pos ⟨hphase, (mayTransmit_iff s.mlc).2 ⟨hwait, hend⟩⟩)
    obtain ⟨hiff, hstay, hleft⟩ :=
      advancePhase_of_switch (m := entrySent (passed ++ ahead ++ rest) (passed ++ ahead).length e s.mlc) hphase
    refine ⟨_, hexec, rfl, ?_, ?_, fun h => ?_, fun h => ?_⟩
    · rw [advancePhase_eq, ← directionByte_eq]
      rfl
    · rw [hiff]
      simp only [entrySent, List.drop_left]
      rfl
    · rw [hstay h]
      rfl
    · obtain ⟨hpos, -, -, hwalk⟩ := hleft h
      exact ⟨hpos, hwalk hwait⟩
  case nothing => exact congrArg Host.Outcome.next (if_neg (not_phase_and_mayTransmit h))
  case merged =>
    intro h
    have hanswer := addAnswer_of_merged h
    exact ⟨hanswer, addRequest_of_not_taken (by rw [hanswer]; nofun)⟩
  case refused =>
    intro h hfull
    have hanswer := (addAnswer_of_new h).trans (if_pos hfull)
    exact ⟨hanswer, addRequest_of_not_taken (by rw [hanswer]; nofun)⟩
  case taken =>
    intro h hroom
    have hanswer := (addAnswer_of_new h).trans (if_neg (Nat.not_le.2 hroom))
    exact ⟨hanswer, addRequest_of_taken hanswer⟩

/-! ### POLL and PROBE -/

theorem nextPoll_eq_some {m : MeterLink} {a : Nat} (hpos : m.pollPos ≤ a) (ha : a ≤ 32) (hdue : pollDue m a = true)
    (hlow : ∀ b, m.pollPos ≤ b → b < a → pollDue m b = false) : nextPoll m = some a := by
  rw [nextPoll, List.find?_range'_eq_some]
  refine ⟨hdue, List.mem_range'_1.2 ⟨hpos, by simp only [Config.heads]; omega⟩, fun b hb hlt => ?_⟩
  rw [hlow b hb hlt]
  rfl

section Probe

variable {m : MeterLink} {a : Nat}

/-- An address that a probe looks for. -/
def probeDue (m : MeterLink) (a : Nat) : Bool := decide ((tableGet HeadEntry.initial m.heads a).state = .absent)

theorem nextProbe_eq (m : MeterLink) :
    nextProbe m = ((List.range' (m.probePointer + 1) (32 - m.probePointer)).find? (probeDue m)).or
      ((List.range' 1 (min m.probePointer 32)).find? (probeDue m)) := List.find?_append

theorem nextProbe_of_above (ha : a ≤ 32) (hdue : probeDue m a = true) (hptr : m.probePointer < a)
    (hlow : ∀ b, m.probePointer < b → b < a → probeDue m b = false) : nextProbe m = some a := by
  have hfind : (List.range' (m.probePointer + 1) (32 - m.probePointer)).find? (probeDue m) = some a := by
    rw [List.find?_range'_eq_some]
    refine ⟨hdue, List.mem_range'_1.2 ⟨hptr, by omega⟩, fun b hb hlt => ?_⟩
    rw [hlow b hb hlt]
    rfl
  rw [nextProbe_eq, hfind]
  rfl

theorem nextProbe_of_wrapped (hone : 1 ≤ a) (ha : a ≤ 32) (hdue : probeDue m a = true) (hptr : a ≤ m.probePointer)
    (hhigh : ∀ b, m.probePointer < b → b ≤ 32 → probeDue m b = false) (hlow : ∀ b, 1 ≤ b → b < a → probeDue m b = false) :
    nextProbe m = some a := by
  have hnone : (List.range' (m.probePointer + 1) (32 - m.probePointer)).find? (probeDue m) = none := by
    rw [List.find?_eq_none]
    intro b hb
    obtain ⟨hlt, hle⟩ := List.mem_range'_1.1 hb
    rw [hhigh b hlt (by omega)]
    nofun
  have hfind : (List.range' 1 (min m.probePointer 32)).find? (probeDue m) = some a := by
    rw [List.find?_range'_eq_some]
    refine ⟨hdue, List.mem_range'_1.2 ⟨hone, by omega⟩, fun b hb hlt => ?_⟩
    rw [hlow b hb hlt]
    rfl
  rw [nextProbe_eq, hnone, hfind]
  rfl

end Probe

/-! ### The pins of the meter link -/

/-- The ten bits of a character: start bit, the byte from its most significant bit on, stop bit. -/
theorem getLsbD_sentCharacter (b : Byte) {bit : Nat} (h : bit < 10) :
    (sentCharacter b).getLsbD (9 - bit) = if bit = 0 then false else if bit = 9 then true else b.getLsbD (8 - bit) := by
  unfold sentCharacter
  simp only [BitVec.append_eq, BitVec.getLsbD_append]
  interval_cases bit <;> simp

/-- The model's line level is the level of the frame's bytes. -/
theorem levelAt_eq_frameLevel (bytes : List Byte) (bit : Nat) : levelAt bytes bit = frameLevel bytes bit := by
  induction bytes generalizing bit with
  | nil => rfl
  | cons b l ih =>
    by_cases h : bit < 10
    · rw [levelAt_cons_of_lt b l h, getLsbD_sentCharacter b h, frameLevel, Nat.div_eq_of_lt h, Nat.mod_eq_of_lt h]
      rfl
    · obtain ⟨k, rfl⟩ := Nat.exists_eq_add_of_le (Nat.not_lt.1 h)
      have hdiv : (10 + k) / 10 = k / 10 + 1 := by omega
      have hmod : (10 + k) % 10 = k % 10 := by omega
      rw [levelAt_cons_add, ih, frameLevel, frameLevel, hdiv, hmod, List.getElem?_cons_succ]

/-- Settles O16: what the walks come to next is what is polled. -/
theorem pollAndProbeOpenAReplyWait : Obligations.PollAndProbeOpenAReplyWait := by
  refine ⟨fun s hphase hwait hend => ⟨fun a hdue => ?repoll, fun a hnone hpos ha hdue hlow => ?first⟩, fun s h => ?noPoll,
    fun s a hphase hwait hend hone ha hdue hptr => ?probe, fun s h => ?noProbe,
    fun s bit => ⟨decide_eq_true_iff, levelAt_eq_frameLevel s.mlc.lastSent bit⟩⟩
  case noPoll => exact congrArg Host.Outcome.next (if_neg (not_phase_and_mayTransmit h))
  case noProbe => exact congrArg Host.Outcome.next (if_neg (not_phase_and_mayTransmit h))
  case repoll =>
    have hpoll : exec .poll s = .next (s.onMlc pollNext) :=
      congrArg Host.Outcome.next (if_pos ⟨hphase, (mayTransmit_iff s.mlc).2 ⟨hwait, hend⟩⟩)
    rw [hpoll, State.onMlc, pollNext, hdue]
    rfl
  case first =>
    have hpoll : exec .poll s = .next (s.onMlc pollNext) :=
      congrArg Host.Outcome.next (if_pos ⟨hphase, (mayTransmit_iff s.mlc).2 ⟨hwait, hend⟩⟩)
    have hnext : nextPoll s.mlc = some a := nextPoll_eq_some hpos ha ((pollDue_iff s.mlc a).2 hdue) fun b hb hlt => by
      rw [← Bool.not_eq_true, pollDue_iff]
      exact hlow b hb hlt
    rw [hpoll, State.onMlc, pollNext, hnone]
    dsimp only
    rw [hnext]
    rfl
  case probe =>
    have hprobe : exec .probe s = .next (s.onMlc probeNext) :=
      congrArg Host.Outcome.next (if_pos ⟨hphase, (mayTransmit_iff s.mlc).2 ⟨hwait, hend⟩⟩)
    have hnext : nextProbe s.mlc = some a := by
      rcases hptr with ⟨hlt, hlow⟩ | ⟨hle, hhigh, hlow⟩
      · exact nextProbe_of_above ha (decide_eq_true hdue) hlt fun b h₁ h₂ => decide_eq_false (hlow b h₁ h₂)
      · exact nextProbe_of_wrapped hone ha (decide_eq_true hdue) hle (fun b h₁ h₂ => decide_eq_false (hhigh b h₁ h₂))
          fun b h₁ h₂ => decide_eq_false (hlow b h₁ h₂)
    rw [hprobe, State.onMlc, probeNext, hnext]
    rfl

end Sys2Proof.Stated
end

section

/-! ### How a poll ends -/

namespace Sys2Proof.Stated

open Sys2Proof.Machine

/-! ### The end of an exchange -/

section Exchange

variable {k : PollKind} {a : Nat} {m : MeterLink}

/-- MLC past an exchange with an address, before a phase with nothing left to do gives way. -/
def walkedPast (a : Nat) (m : MeterLink) : MeterLink := { m with wait := none, repollDue := none, pollPos := a + 1 }

theorem endExchange_probe (a : Nat) (m : MeterLink) : endExchange .probe a m = { m with wait := none, phase := .complete } := rfl

theorem endExchange_of_ne (h : k ≠ .probe) : endExchange k a m = advancePhase (walkedPast a m) := by
  cases k
  case probe => exact absurd rfl h
  all_goals rfl

/-- What the end of an exchange can write. -/
theorem endExchange_eq (k : PollKind) (a : Nat) (m : MeterLink) :
    endExchange k a m =
      { m with
        phase := (endExchange k a m).phase, wait := none, repollDue := (endExchange k a m).repollDue
        pollPos := (endExchange k a m).pollPos } := by
  by_cases h : k = .probe
  · rw [h, endExchange_probe]
  · rw [endExchange_of_ne h, advancePhase_eq]
    rfl

@[simp] theorem endExchange_heads (k : PollKind) (a : Nat) (m : MeterLink) : (endExchange k a m).heads = m.heads := by rw [endExchange_eq]

@[simp] theorem endExchange_marks (k : PollKind) (a : Nat) (m : MeterLink) : (endExchange k a m).marks = m.marks := by rw [endExchange_eq]

@[simp] theorem endExchange_tally (k : PollKind) (a : Nat) (m : MeterLink) : (endExchange k a m).tally = m.tally := by rw [endExchange_eq]

@[simp] theorem head_onMlc_endExchange (s : State) (k : PollKind) (a b : Nat) : (s.onMlc (endExchange k a)).head b = s.head b := by
  rw [State.head, State.onMlc_mlc, endExchange_heads]
  rfl

@[simp] theorem mark_onMlc_endExchange (s : State) (k : PollKind) (a b : Nat) : (s.onMlc (endExchange k a)).mark b = s.mark b := by
  rw [State.mark, State.onMlc_mlc, endExchange_marks]
  rfl

theorem repollDue_endExchange (h : k ≠ .probe) : (endExchange k a m).repollDue = none := by
  rw [endExchange_of_ne h, advancePhase_eq]
  rfl

theorem walkFrom_endExchange (h : k ≠ .probe) (hphase : m.phase = .poll) : WalkFrom (a + 1) (endExchange k a m) := by
  rw [endExchange_of_ne h]
  exact walkFrom_advancePhase (m := walkedPast a m) hphase rfl rfl

end Exchange

/-! ### A miss -/

theorem mark_setMark_other (s : State) {k k' : Nat} (v : AddrMark) (h : k ≠ k') : (s.setMark k v).mark k' = s.mark k' :=
  tableGet_tableSet_other _ _ _ h

theorem missEntry_eq_missed (limit : Nat) (e : HeadEntry) : missEntry limit e = missed limit e := by
  unfold missEntry missed
  by_cases hlimit : limit ≤ min 255 (e.silence + 1) <;> by_cases hlost : e.state = .lost <;> simp [Config.byteMax, hlimit, hlost]

/-- A miss that makes an entry LOST. -/
def FallsLost (limit : Nat) (e : HeadEntry) : Prop := (missed limit e).state = .lost ∧ e.state ≠ .lost

theorem fallsLost_iff (limit : Nat) (e : HeadEntry) : FallsLost limit e ↔ e.state ≠ .lost ∧ limit ≤ min 255 (e.silence + 1) := by
  unfold FallsLost missed
  by_cases hlimit : limit ≤ min 255 (e.silence + 1) <;> by_cases hpresent : e.state = .present <;> simp [hlimit, hpresent]

section Miss

variable (s : State) (a : Nat)

theorem missHead_mlc :
    (missHead s a).mlc = ((s.setHead a (missed s.ct.config.lostLimit (s.head a))).setMark a .missed).mlc := by
  unfold missHead
  dsimp only
  rw [missEntry_eq_missed]
  split_ifs <;> rfl

theorem missHead_mlc_writes :
    (missHead s a).mlc = { s.mlc with heads := (missHead s a).mlc.heads, marks := (missHead s a).mlc.marks } := by
  rw [missHead_mlc]
  rfl

@[simp] theorem missHead_ct : (missHead s a).ct = s.ct := by rw [writesMlcNu_missHead s a]

@[simp] theorem head_missHead_same : (missHead s a).head a = missed s.ct.config.lostLimit (s.head a) := by
  rw [State.head, missHead_mlc]
  exact State.head_setHead_same s a _

@[simp] theorem mark_missHead_same : (missHead s a).mark a = .missed := by
  rw [State.mark, missHead_mlc]
  exact State.mark_setMark_same _ a _

theorem missHead_nu_of_falls (h : FallsLost s.ct.config.lostLimit (s.head a)) : (missHead s a).nu = (latchUnit .headLost s).nu := by
  unfold missHead
  rw [FallsLost, ← missEntry_eq_missed] at h
  dsimp only
  rw [if_pos h]
  rfl

theorem missHead_nu_of_not (h : ¬ FallsLost s.ct.config.lostLimit (s.head a)) : (missHead s a).nu = s.nu := by
  unfold missHead
  rw [FallsLost, ← missEntry_eq_missed] at h
  dsimp only
  rw [if_neg h]
  rfl

variable {a} {b : Nat}

theorem head_missHead_other (h : b ≠ a) : (missHead s a).head b = s.head b := by
  rw [State.head, missHead_mlc]
  exact State.head_setHead_other s _ h.symm

theorem mark_missHead_other (h : b ≠ a) : (missHead s a).mark b = s.mark b := by
  rw [State.mark, missHead_mlc]
  exact mark_setMark_other _ _ h.symm

end Miss

/-! ### A poll that ends not answered -/

theorem notAnswered_of_probe {w : ReplyWait} (h : w.kind = .probe) (s : State) :
    notAnswered w s = { s with mlc := { s.mlc with wait := none, phase := .complete } } := by
  rw [notAnswered, h]
  rfl

theorem notAnswered_of_ne {w : ReplyWait} (h : w.kind ≠ .probe) (s : State) :
    notAnswered w s = (missHead s w.addr).onMlc (endExchange w.kind w.addr) := by
  unfold notAnswered
  split
  · next hk => exact absurd hk h
  · rfl

theorem notAnswered_notAnswered (w : ReplyWait) (s : State) : NotAnswered w s (notAnswered w s) := by
  refine ⟨fun h => notAnswered_of_probe h s, fun h => ?_⟩
  have hwrites := writesMlcNu_missHead s w.addr
  have hphase : (missHead s w.addr).mlc.phase = s.mlc.phase := by rw [missHead_mlc_writes]
  rw [notAnswered_of_ne h]
  simp only [head_onMlc_endExchange, mark_onMlc_endExchange, State.onMlc_mlc, State.onMlc_nu, endExchange_heads, endExchange_marks]
  refine ⟨?frame, ?link, head_missHead_same s w.addr, fun a ha => head_missHead_other s ha, mark_missHead_same s w.addr,
    fun a ha => mark_missHead_other s ha, fun hpoll => walkFrom_endExchange h (hphase.trans hpoll), ?causes⟩
  case frame =>
    unfold WritesMlcNu at hwrites
    rw [State.onMlc, hwrites]
  case link =>
    rw [endExchange_eq, repollDue_endExchange h, missHead_mlc_writes]
  case causes =>
    have hfalls := fallsLost_iff s.ct.config.lostLimit (s.head w.addr)
    split_ifs with hlost
    · exact missHead_nu_of_falls s w.addr (hfalls.2 hlost)
    · exact missHead_nu_of_not s w.addr (mt hfalls.1 hlost)

/-- Settles O17: the wait's ticks decide. -/
theorem replyWaitCloseEndsThePollNotAnswered : Obligations.ReplyWaitCloseEndsThePollNotAnswered := by
  intro s
  have hexec : exec .replyWaitClose s =
      .next (match s.mlc.wait with | some w => if Config.replyWaitTicks ≤ w.ticks then notAnswered w s else s | none => s) := rfl
  refine ⟨fun w hw hticks => ?closes, fun w hw hticks => ?lasts, fun hw => ?free⟩ <;> rw [hexec, hw]
  case closes => exact ⟨_, congrArg Host.Outcome.next (if_pos hticks), notAnswered_notAnswered w s⟩
  case lasts => exact congrArg Host.Outcome.next (if_neg (Nat.not_le.2 hticks))

/-! ### A reply frame that is not accepted -/

theorem replyCheck_iff (bytes : List Byte) (error : Bool) : replyCheck bytes error = true ↔ FrameSound bytes error := by
  simp only [replyCheck, FrameSound, crc8Ok, Bool.and_eq_true, Bool.not_eq_true', decide_eq_true_eq, and_assoc]
  rfl

theorem receiveReply_of_none {chars : List Character} {s : State} (h : s.mlc.wait = none) :
    receiveReply chars s = latchUnit .linkFault s := by
  rw [receiveReply, h]

theorem receiveReply_of_ending {chars : List Character} {s : State} (hwait : s.mlc.wait ≠ none) (hend : s.mlc.roundEndDue = true) :
    receiveReply chars s = s := by
  unfold receiveReply
  split
  · next h => exact absurd h hwait
  · exact if_pos hend

theorem receiveReply_of_wait {chars : List Character} {w : ReplyWait} {s : State} (hwait : s.mlc.wait = some w)
    (hend : s.mlc.roundEndDue = false) : receiveReply chars s = checkReply w (bytesOf chars) (anyFramingError chars) s := by
  rw [receiveReply, hwait]
  exact if_neg (by simp [hend])

theorem checkReply_of_unsound {w : ReplyWait} {bytes : List Byte} {error : Bool} {s : State} (h : ¬ FrameSound bytes error) :
    checkReply w bytes error s = failCheck w s := by
  rw [← replyCheck_iff] at h
  exact if_neg h

theorem failCheck_of_first {w : ReplyWait} (h : w.kind = .first) (s : State) :
    failCheck w s = (countError w.addr s).onMlc fun m => { m with wait := none, repollDue := some w.addr } := by
  rw [failCheck, h]

theorem failCheck_of_ne {w : ReplyWait} (h : w.kind ≠ .first) (s : State) : failCheck w s = notAnswered w (countError w.addr s) := by
  unfold failCheck
  split
  · next hk => exact absurd hk h
  · rfl

/-- The stamp of two bytes, the more significant first. -/
theorem ofNat_beNat_pair (s1 s0 : Byte) : BitVec.ofNat 16 (beNat [s1, s0]) = s1 ++ s0 := by
  apply BitVec.eq_of_toNat_eq
  have hlow := s0.isLt
  have hhigh := s1.isLt
  rw [BitVec.toNat_append, ← Nat.shiftLeft_add_eq_or_of_lt hlow]
  simp only [BitVec.toNat_ofNat, beNat, List.foldl_cons, List.foldl_nil, Nat.shiftLeft_eq]
  omega

section Sound

variable {w : ReplyWait} {bytes body : List Byte} {error : Bool} {s : State} {src seq s1 s0 fl cnt : Byte}

/-- The fields of a reply frame, by its bytes. -/
def replyFields (src seq s1 s0 fl cnt : Byte) (body : List Byte) : ReplyFrame :=
  { source := src.toNat, seq := seq, stamp := s1 ++ s0, flags := { a := fl.getLsbD 0, b := fl.getLsbD 1 }, count := cnt.toNat, body := body }

theorem parseReply_eq : parseReply (src :: seq :: s1 :: s0 :: fl :: cnt :: body) = some (replyFields src seq s1 s0 fl cnt body) := by
  simp only [parseReply, ofNat_beNat_pair]
  rfl

theorem lengthCheck_iff :
    lengthCheck (replyFields src seq s1 s0 fl cnt body) (src :: seq :: s1 :: s0 :: fl :: cnt :: body) = true ↔
      cnt.toNat ≤ 48 ∧ body.length = 1 + 6 * cnt.toNat := by
  rw [lengthCheck, decide_eq_true_eq]
  simp only [replyFields, Config.outletsPerHead, Config.replyFrameMin, List.length_cons]
  omega

/-- A frame that passes the first check: the others, in their order. -/
theorem checkReply_of_sound (h : FrameSound (src :: seq :: s1 :: s0 :: fl :: cnt :: body) error) :
    checkReply w (src :: seq :: s1 :: s0 :: fl :: cnt :: body) error s =
      if src.toNat ≠ w.addr then notAnswered w (latchUnit .linkFault s)
      else if (s.head w.addr).lastSeq = some seq then takeRepeat w s
      else if lengthCheck (replyFields src seq s1 s0 fl cnt body) (src :: seq :: s1 :: s0 :: fl :: cnt :: body) then
        acceptFrame w (replyFields src seq s1 s0 fl cnt body) s
      else notAnswered w (countError w.addr s) := by
  rw [← replyCheck_iff] at h
  rw [checkReply, if_pos h, parseReply_eq]
  rfl

end Sound

/-- A repeat is an answer that carries no reading. -/
theorem takeRepeat_spec {w : ReplyWait} (hkind : w.kind ≠ .probe) (s : State) :
    (takeRepeat w s).mlc =
        { s.mlc with
          heads := (takeRepeat w s).mlc.heads, marks := (takeRepeat w s).mlc.marks, phase := (takeRepeat w s).mlc.phase, wait := none
          repollDue := none, pollPos := (takeRepeat w s).mlc.pollPos } ∧
      (takeRepeat w s).head w.addr = { s.head w.addr with silence := 0, state := .present } ∧
      (∀ a, a ≠ w.addr → (takeRepeat w s).head a = s.head a) ∧ (takeRepeat w s).mark w.addr = .answered ∧
      (∀ a, a ≠ w.addr → (takeRepeat w s).mark a = s.mark a) ∧ (s.mlc.phase = .poll → WalkFrom (w.addr + 1) (takeRepeat w s).mlc) := by
  simp only [takeRepeat, head_onMlc_endExchange, mark_onMlc_endExchange, State.head_setMark, State.onMlc_mlc, endExchange_heads, endExchange_marks]
  refine ⟨?_, State.head_setHead_same s w.addr _, fun a ha => State.head_setHead_other s _ ha.symm, State.mark_setMark_same _ w.addr _,
    fun a ha => mark_setMark_other _ _ ha.symm, fun hpoll => walkFrom_endExchange hkind hpoll⟩
  rw [endExchange_eq, repollDue_endExchange hkind]
  rfl

/-- Settles O18: by the first check that fails. -/
theorem replyFrameFailsTheFirstCheckThatFails : Obligations.ReplyFrameFailsTheFirstCheckThatFails := by
  refine ⟨fun first rest s hwait => ⟨?stray, ?strayRow⟩, fun first rest s hwait hend => ?ending, fun s hwait => ?awaited,
    fun first rest chars w s hchars hwait hend hbad => ⟨fun hkind => ?repoll, fun hkind => ?failed⟩,
    fun first rest chars src seq s1 s0 fl cnt body w s hchars hwait hend hbytes hsound => ?checks⟩
  case stray => exact congrArg Host.Outcome.next (receiveReply_of_none hwait)
  case strayRow => exact congrArg Host.Outcome.next (if_pos hwait)
  case ending => exact congrArg Host.Outcome.next (receiveReply_of_ending hwait hend)
  case awaited => exact congrArg Host.Outcome.next (if_neg hwait)
  case repoll =>
    have hexec : exec (.replyFrame first rest) s = .next (failCheck w s) := by
      rw [← checkReply_of_unsound hbad, ← receiveReply_of_wait hwait hend, hchars]
      rfl
    rw [hexec, failCheck_of_first hkind]
    exact ⟨_, rfl, rfl, State.head_setHead_same s w.addr _, fun a ha => State.head_setHead_other s _ ha.symm⟩
  case failed =>
    have hexec : exec (.replyFrame first rest) s = .next (failCheck w s) := by
      rw [← checkReply_of_unsound hbad, ← receiveReply_of_wait hwait hend, hchars]
      rfl
    rw [hexec, failCheck_of_ne hkind]
    exact ⟨_, rfl, notAnswered_notAnswered w _⟩
  case checks =>
    have hcheck := receiveReply_of_wait (chars := chars) hwait hend
    rw [hbytes] at hcheck hsound
    rw [checkReply_of_sound hsound] at hcheck
    have hexec : exec (.replyFrame first rest) s = .next (receiveReply chars s) := by rw [hchars]; rfl
    rw [hexec, hcheck]
    refine ⟨fun hsrc => ?source, fun hsrc hseq hkind => ?repeated, fun hsrc hseq hlength => ?length⟩
    case source =>
      rw [if_pos hsrc]
      exact ⟨_, rfl, notAnswered_notAnswered w _⟩
    case repeated =>
      rw [if_neg (not_not.2 hsrc), if_pos hseq]
      exact ⟨_, rfl, rfl, takeRepeat_spec hkind s⟩
    case length =>
      rw [if_neg (not_not.2 hsrc), if_neg hseq, if_neg (mt lengthCheck_iff.1 hlength)]
      exact ⟨_, rfl, notAnswered_notAnswered w _⟩

/-! ### A reply frame that is accepted -/

section Accept

variable (w : ReplyWait) (f : ReplyFrame) (s : State)

/-- MLC with the entry, the outcome and the tally of an accepted frame, before its exchange ends. -/
def frameNoted : MeterLink :=
  { s.mlc with
    heads := tableSet HeadEntry.initial s.mlc.heads w.addr (acceptedEntry f (s.head w.addr))
    marks := tableSet .notReached s.mlc.marks w.addr .answered, tally := s.mlc.tally.add f.flags }

theorem acceptFrame_eq :
    acceptFrame w f s =
      { s with
        mlc := endExchange w.kind w.addr (frameNoted w f s)
        nu := if w.kind = .probe then (latchUnit .headJoined s).nu else s.nu
        oae := { s.oae with deliveries := s.oae.deliveries ++ [{ head := w.addr, stamp := f.stamp, records := f.records }] }
        tp := { s.tp with
          copies := s.tp.copies ++ [{ head := w.addr, stamp := f.stamp, flags := f.flags, records := f.records }] } } := by
  unfold acceptFrame
  split_ifs <;> rfl

variable (a : Nat)

theorem head_acceptFrame : (acceptFrame w f s).head a = (s.setHead w.addr (acceptedEntry f (s.head w.addr))).head a := by
  rw [State.head, acceptFrame_eq, endExchange_heads]
  rfl

theorem mark_acceptFrame : (acceptFrame w f s).mark a = (s.setMark w.addr .answered).mark a := by
  rw [State.mark, acceptFrame_eq, endExchange_marks]
  rfl

end Accept

/-- Settles O19: what `acceptFrame` writes, field by field. -/
theorem replyFrameAccepted : Obligations.ReplyFrameAccepted := by
  intro first rest chars src seq s1 s0 fl cnt body w s hchars hwait hend hbytes hsound hsrc hseq hcount hlength
  have hcheck := receiveReply_of_wait (chars := chars) hwait hend
  rw [hbytes] at hcheck hsound
  rw [checkReply_of_sound hsound, if_neg (not_not.2 hsrc), if_neg hseq, if_pos (lengthCheck_iff.2 ⟨hcount, hlength⟩)] at hcheck
  have hexec : exec (.replyFrame first rest) s = .next (receiveReply chars s) := by rw [hchars]; rfl
  refine ⟨_, hexec.trans (congrArg Host.Outcome.next hcheck), ?_⟩
  simp only [head_acceptFrame, mark_acceptFrame]
  rw [acceptFrame_eq]
  refine ⟨rfl, State.head_setHead_same s w.addr _, fun a ha => State.head_setHead_other s _ ha.symm, State.mark_setMark_same s w.addr _,
    fun a ha => mark_setMark_other s _ ha.symm, endExchange_tally _ _ _, ?link, fun hkind => ?probe, fun hkind => ?poll, rfl, rfl⟩
  case link =>
    rw [endExchange_eq]
    rfl
  case probe =>
    rw [hkind]
    exact ⟨rfl, rfl, rfl, rfl⟩
  case poll => exact ⟨if_neg hkind, repollDue_endExchange hkind, fun hpoll => walkFrom_endExchange hkind hpoll⟩

end Sys2Proof.Stated
end

section

/-! ### The end of a round -/

namespace Sys2Proof.Stated

open Sys2Proof.Machine

/-! ### A latch made twice -/

/-- A latch depends on the cause sets alone. -/
theorem latchUnit_nu_of_nu_eq {s t : State} (c : UnitCause) (h : s.nu = t.nu) : (latchUnit c s).nu = (latchUnit c t).nu := by
  simp only [latchUnit, State.onNu_nu, h]

theorem latchUnit_of_latched {c : UnitCause} {s : State} (h : s.nu.unit.latched.getLsbD c.bit = true) : latchUnit c s = s := by
  simp only [latchUnit, State.onNu, CauseSet.latch, queueAfterLatch, h, if_true]

theorem latchUnit_latchUnit (c : UnitCause) (s : State) : latchUnit c (latchUnit c s) = latchUnit c s :=
  latchUnit_of_latched ((getLsbD_latchUnit c s c.bit).2 (.inr rfl))

/-! ### The misses of a round's end -/

section Misses

variable (l : List Nat) (s : State) (a : Nat)

@[simp] theorem missHeads_ct : (l.foldl missHead s).ct = s.ct := by rw [writesMlcNu_missHeads l s]

theorem missHeads_mlc_writes :
    (l.foldl missHead s).mlc = { s.mlc with heads := (l.foldl missHead s).mlc.heads, marks := (l.foldl missHead s).mlc.marks } := by
  induction l generalizing s with
  | nil => rfl
  | cons b l ih =>
    rw [List.foldl_cons, ih, missHead_mlc_writes]

variable {l a}

theorem missHeads_of_notMem (h : a ∉ l) : (l.foldl missHead s).head a = s.head a ∧ (l.foldl missHead s).mark a = s.mark a := by
  induction l generalizing s with
  | nil => exact ⟨rfl, rfl⟩
  | cons b l ih =>
    obtain ⟨hab, hl⟩ := List.ne_and_not_mem_of_not_mem_cons h
    rw [List.foldl_cons, (ih _ hl).1, (ih _ hl).2, head_missHead_other s hab, mark_missHead_other s hab]
    exact ⟨rfl, rfl⟩

theorem missHeads_of_mem (hnodup : l.Nodup) (h : a ∈ l) :
    (l.foldl missHead s).head a = missed s.ct.config.lostLimit (s.head a) ∧ (l.foldl missHead s).mark a = .missed := by
  induction l generalizing s with
  | nil => cases h
  | cons b l ih =>
    obtain ⟨hb, hnodup⟩ := List.nodup_cons.1 hnodup
    rw [List.foldl_cons]
    by_cases hab : a = b
    · subst hab
      rw [(missHeads_of_notMem _ hb).1, (missHeads_of_notMem _ hb).2, head_missHead_same, mark_missHead_same]
      exact ⟨rfl, rfl⟩
    · have hmem := (List.mem_cons.1 h).resolve_left hab
      rw [(ih _ hnodup hmem).1, (ih _ hnodup hmem).2, missHead_ct, head_missHead_other s hab]
      exact ⟨rfl, rfl⟩

theorem missHeads_nu_of_none (hnodup : l.Nodup) (h : ∀ a ∈ l, ¬ FallsLost s.ct.config.lostLimit (s.head a)) :
    (l.foldl missHead s).nu = s.nu := by
  induction l generalizing s with
  | nil => rfl
  | cons b l ih =>
    obtain ⟨hb, hnodup⟩ := List.nodup_cons.1 hnodup
    have hrest : ∀ a ∈ l, ¬ FallsLost (missHead s b).ct.config.lostLimit ((missHead s b).head a) := fun a ha => by
      rw [missHead_ct, head_missHead_other s (ne_of_mem_of_not_mem ha hb)]
      exact h a (List.mem_cons_of_mem _ ha)
    rw [List.foldl_cons, ih _ hnodup hrest, missHead_nu_of_not s b (h b List.mem_cons_self)]

theorem missHeads_nu_of_some (hnodup : l.Nodup) (h : ∃ a ∈ l, FallsLost s.ct.config.lostLimit (s.head a)) :
    (l.foldl missHead s).nu = (latchUnit .headLost s).nu := by
  induction l generalizing s with
  | nil =>
    obtain ⟨a, ha, -⟩ := h
    cases ha
  | cons b l ih =>
    obtain ⟨hb, hnodup⟩ := List.nodup_cons.1 hnodup
    have hsame : ∀ a ∈ l, (FallsLost (missHead s b).ct.config.lostLimit ((missHead s b).head a) ↔
        FallsLost s.ct.config.lostLimit (s.head a)) := fun a ha => by
      rw [missHead_ct, head_missHead_other s (ne_of_mem_of_not_mem ha hb)]
    rw [List.foldl_cons]
    by_cases hrest : ∃ a ∈ l, FallsLost s.ct.config.lostLimit (s.head a)
    · obtain ⟨a, ha, hfalls⟩ := hrest
      rw [ih _ hnodup ⟨a, ha, (hsame a ha).2 hfalls⟩]
      by_cases hfirst : FallsLost s.ct.config.lostLimit (s.head b)
      · rw [latchUnit_nu_of_nu_eq _ (missHead_nu_of_falls s b hfirst), latchUnit_latchUnit]
      · exact latchUnit_nu_of_nu_eq _ (missHead_nu_of_not s b hfirst)
    · have hnone : ∀ a ∈ l, ¬ FallsLost s.ct.config.lostLimit (s.head a) := fun a ha hfalls => hrest ⟨a, ha, hfalls⟩
      have hfirst : FallsLost s.ct.config.lostLimit (s.head b) := by
        obtain ⟨a, ha, hfalls⟩ := h
        rcases List.mem_cons.1 ha with rfl | ha
        · exact hfalls
        · exact absurd hfalls (hnone a ha)
      rw [missHeads_nu_of_none _ hnodup fun a ha => mt (hsame a ha).1 (hnone a ha), missHead_nu_of_falls s b hfirst]

end Misses

section RoundEnd

variable (s : State)

theorem mem_missedAtEnd_iff (a : Nat) : a ∈ missedAtEnd s.mlc ↔ MissedAtEnd s a := by
  unfold missedAtEnd MissedAtEnd State.head State.mark
  split_ifs with hphase
  · simp only [List.mem_filter, List.mem_range'_1, Config.heads, decide_eq_true_eq, hphase, true_and, ← and_assoc]
    exact and_congr_left fun _ => and_congr_left fun _ => and_congr_right fun _ => Nat.lt_succ_iff
  · simp [hphase]

theorem nodup_missedAtEnd (m : MeterLink) : (missedAtEnd m).Nodup := by
  unfold missedAtEnd
  split_ifs
  · exact List.Nodup.filter _ List.nodup_range'
  · exact List.nodup_nil

theorem mlc_endRound : (endRound s).mlc = (roundClosed s).mlc := by
  rw [endRound_eq, handFeeds, State.onOae_mlc, judgeTally_writes_fm_nu]

theorem head_endRound (a : Nat) : (endRound s).head a = ((missedAtEnd s.mlc).foldl missHead s).head a := by
  rw [State.head, mlc_endRound]
  rfl

theorem mark_endRound (a : Nat) : (endRound s).mark a = ((missedAtEnd s.mlc).foldl missHead s).mark a := by
  rw [State.mark, mlc_endRound]
  rfl

theorem mlc_endRound_writes :
    (endRound s).mlc =
      { s.mlc with
        heads := (endRound s).mlc.heads, marks := (endRound s).mlc.marks, phase := .idle, repollDue := none, wait := none
        roundEndDue := false, tally := { frames := 0, absentA := 0, absentB := 0 } } := by
  have hlink := missHeads_mlc_writes (missedAtEnd s.mlc) s
  rw [mlc_endRound, roundClosed, State.onMlc_mlc, closeRound, hlink]
  rfl

/-- FM judges with the states and the restore count that stood before the round's end. -/
theorem fm_endRound :
    (endRound s).fm =
      { a := judgeFeed s.ct.config.restoreCount s.fm.a (feedVerdict s.mlc.tally.frames s.mlc.tally.absentA)
        b := judgeFeed s.ct.config.restoreCount s.fm.b (feedVerdict s.mlc.tally.frames s.mlc.tally.absentB) } := by
  have hfm : (roundClosed s).fm = s.fm := by rw [writesMlcNu_roundClosed s]
  have hct : (roundClosed s).ct = s.ct := by rw [writesMlcNu_roundClosed s]
  rw [endRound_eq, handFeeds, State.onOae_fm, judgeTally_fm, hfm, hct]

/-- A feed that does not move latches nothing. -/
theorem feedCauses_of_state_eq {before after : FeedWatch} (h : after.state = before.state) (s : State) : feedCauses before after s = s := by
  rw [feedCauses, h, if_neg, if_neg]
  · rintro ⟨hreturning, hpresent⟩
    rw [hreturning] at hpresent
    cases hpresent
  · rintro ⟨hpresent, hlost⟩
    rw [hpresent] at hlost
    cases hlost

theorem nu_endRound_of_still (ha : (endRound s).fm.a.state = s.fm.a.state) (hb : (endRound s).fm.b.state = s.fm.b.state) :
    (endRound s).nu = (roundClosed s).nu := by
  have hfm : (roundClosed s).fm = s.fm := by rw [writesMlcNu_roundClosed s]
  have hnu : (endRound s).nu = (judgeTally s.mlc.tally (roundClosed s)).nu := rfl
  have hjudged : (endRound s).fm = (judgeTally s.mlc.tally (roundClosed s)).fm := rfl
  rw [hnu, judgeTally_nu, ← hjudged, hfm, feedCauses_of_state_eq hb, feedCauses_of_state_eq ha]

/-- What is latched before FM judges stays latched. -/
theorem latched_endRound {j : Nat} (h : (roundClosed s).nu.unit.latched.getLsbD j = true) :
    (endRound s).nu.unit.latched.getLsbD j = true := by
  have hnu : (endRound s).nu = (judgeTally s.mlc.tally (roundClosed s)).nu := rfl
  rw [hnu, judgeTally_nu, getLsbD_feedCauses, getLsbD_feedCauses]
  exact .inl (.inl h)

theorem fallsLost_of_missedAtEnd {a : Nat} (h : MissedAtEnd s a) :
    FallsLost s.ct.config.lostLimit (s.head a) ↔ ((endRound s).head a).state = .lost ∧ (s.head a).state ≠ .lost := by
  rw [head_endRound, (missHeads_of_mem s (nodup_missedAtEnd s.mlc) ((mem_missedAtEnd_iff s a).2 h)).1]
  rfl

theorem nu_roundClosed_of_lost (h : ∃ a, MissedAtEnd s a ∧ ((endRound s).head a).state = .lost ∧ (s.head a).state ≠ .lost) :
    (roundClosed s).nu = (latchUnit .headLost s).nu := by
  obtain ⟨a, ha, hlost⟩ := h
  exact missHeads_nu_of_some s (nodup_missedAtEnd s.mlc) ⟨a, (mem_missedAtEnd_iff s a).2 ha, (fallsLost_of_missedAtEnd s ha).2 hlost⟩

theorem nu_roundClosed_of_none_lost (h : ∀ a, MissedAtEnd s a → ((endRound s).head a).state = .lost → (s.head a).state = .lost) :
    (roundClosed s).nu = s.nu := by
  refine missHeads_nu_of_none s (nodup_missedAtEnd s.mlc) fun a hmem hfalls => ?_
  have ha := (mem_missedAtEnd_iff s a).1 hmem
  obtain ⟨hlost, hnot⟩ := (fallsLost_of_missedAtEnd s ha).1 hfalls
  exact hnot (h a ha hlost)

end RoundEnd

/-- Settles O20: the misses, the judgment and what FM hands OAE, by the parts of `endRound`. -/
theorem roundEndCountsMissesAndJudgesTheTally : Obligations.RoundEndCountsMissesAndJudgesTheTally := by
  intro s
  refine ⟨fun hend => ?ends, fun hend => congrArg Host.Outcome.next (if_neg (by simp [hend]))⟩
  have hmlc := mlc_endRound s
  have hwrites := writesMlcNu_roundClosed s
  unfold WritesMlcNu at hwrites
  refine ⟨roundClosed s, endRound s, congrArg Host.Outcome.next (if_pos hend), ?frame, ?judged, rfl, endRound_oae s,
    nu_roundClosed_of_lost s, nu_roundClosed_of_none_lost s, mlc_endRound_writes s, fun a ha => ?missed, fun a ha => ?other, fm_endRound s,
    fun hnone ha hb => ?quiet, fun hlost => ?lost⟩
  case frame =>
    have hjudged : judgeTally s.mlc.tally (roundClosed s) = { roundClosed s with
      fm := (endRound s).fm, nu := (endRound s).nu } := judgeTally_writes_fm_nu _ _
    have hround : endRound s = { judgeTally s.mlc.tally (roundClosed s) with oae := (endRound s).oae } := rfl
    rw [hjudged, hwrites, ← hmlc] at hround
    exact hround
  case judged => rw [hmlc, ← hwrites]
  case missed =>
    rw [head_endRound, mark_endRound]
    exact missHeads_of_mem s (nodup_missedAtEnd s.mlc) ((mem_missedAtEnd_iff s a).2 ha)
  case other =>
    rw [head_endRound, mark_endRound]
    exact missHeads_of_notMem s (mt (mem_missedAtEnd_iff s a).1 ha)
  case quiet => exact (nu_endRound_of_still s ha hb).trans (nu_roundClosed_of_none_lost s hnone)
  case lost =>
    refine latched_endRound s ?_
    rw [nu_roundClosed_of_lost s hlost]
    exact (getLsbD_latchUnit .headLost s 0).2 (.inr rfl)

end Sys2Proof.Stated
end

section

/-! ### FORGET-HEAD -/

namespace Sys2Proof.Stated

open Sys2Proof.Machine

theorem bne_eq_decide_ne (a b : Nat) : (a != b) = decide (a ≠ b) := by rw [Bool.eq_iff_iff, bne_iff_ne, decide_eq_true_eq]

/-- The former entry as FORGET-HEAD hands it back. -/
theorem headBytes_eq (e : HeadEntry) :
    headBytes e =
      [match e.state with | .absent => 0#8 | .present => 1#8 | .silent => 2#8 | .lost => 3#8] ++ [b1 e.errorCount, b1 e.silence] ++
        (match e.lastStamp with | none => [0#8, 0#8, 0#8] | some p => [1#8] ++ be 2 p.toNat) ++
        [match e.lastFlags with | none => 0#8 | some f => b1 ((if f.a then 1 else 0) + if f.b then 2 else 0)] := by
  have hstate : b1 e.state.code = match e.state with | .absent => 0#8 | .present => 1#8 | .silent => 2#8 | .lost => 3#8 := by
    cases e.state <;> rfl
  unfold headBytes
  rw [be_one, be_one, be_one, hstate]
  cases e.lastStamp <;> cases e.lastFlags <;> rfl

/-! ### What FORGET-HEAD writes of MLC -/

section Link

variable {h : Nat} {m : MeterLink}

/-- An entry of the Switch Queue for an outlet of a head. -/
def entryOf (h : Nat) (e : SwitchEntry) : Bool := decide (e.addr.head = h)

/-- MLC without the head's entry and its Switch Queue entries, before the exchange in progress is looked at. -/
def linkForgotten (h : Nat) (m : MeterLink) : MeterLink :=
  removeEntries (entryOf h) { m with heads := tableSet HeadEntry.initial m.heads h HeadEntry.initial }

theorem entryOf_not_eq (h : Nat) : (fun e => !entryOf h e) = fun e : SwitchEntry => decide (e.addr.head ≠ h) := by
  funext e
  exact (decide_not ..).symm

/-- The exchange in progress moves nothing but the phase, the wait, the re-poll and the walk. -/
theorem forgetExchange_eq (h : Nat) (m : MeterLink) :
    forgetExchange h m =
      { m with
        phase := (forgetExchange h m).phase, wait := (forgetExchange h m).wait, repollDue := (forgetExchange h m).repollDue
        pollPos := (forgetExchange h m).pollPos } := by
  unfold forgetExchange
  split
  · split_ifs
    · rw [endExchange_eq]
    · rw [advancePhase_eq]
  · split_ifs
    · rw [endExchange_eq]
    · rw [advancePhase_eq]

theorem forgetExchange_of_wait {w : ReplyWait} (hwait : m.wait = some w) (haddr : w.addr = h) :
    forgetExchange h m = endExchange w.kind h m := by
  rw [forgetExchange, hwait]
  exact if_pos haddr

theorem forgetExchange_of_repoll (hwait : m.wait = none) (hdue : m.repollDue = some h) :
    forgetExchange h m = endExchange .repoll h m := by
  rw [forgetExchange, hwait]
  exact if_pos hdue

theorem forgetExchange_of_other_wait {w : ReplyWait} (hwait : m.wait = some w) (haddr : w.addr ≠ h) :
    forgetExchange h m = advancePhase m := by
  rw [forgetExchange, hwait]
  exact if_neg haddr

theorem forgetExchange_of_no_exchange (hwait : m.wait = none) (hdue : m.repollDue ≠ some h) : forgetExchange h m = advancePhase m := by
  rw [forgetExchange, hwait]
  exact if_neg hdue

/-- Behind an open exchange only a switch phase can end. -/
theorem advancePhase_of_wait {w : ReplyWait} (hwait : m.wait = some w) (hphase : m.phase ≠ .switch) : advancePhase m = m := by
  have hopen : m.wait ≠ none := by rw [hwait]; nofun
  refine advancePhase_of_busy ?_
  cases hp : m.phase
  case switch => exact absurd hp hphase
  case poll => exact .inl ⟨rfl, .inl hopen⟩
  case probe => exact .inr (.inl ⟨rfl, hopen⟩)
  case idle => exact .inr (.inr (.inl rfl))
  case complete => exact .inr (.inr (.inr rfl))

/-- While an address is ABSENT the probe phase lasts. -/
theorem advancePhase_of_probe {a : Nat} (hphase : m.phase = .probe) (hone : 1 ≤ a) (ha : a ≤ 32)
    (habsent : (tableGet HeadEntry.initial m.heads a).state = .absent) : advancePhase m = m := by
  have hsome : nextProbe m ≠ none := fun hnone => (nextProbe_eq_none_iff m).1 hnone a hone ha habsent
  unfold advancePhase endProbePhase endPollPhase endSwitchPhase
  simp [hphase, hsome]

/-- The forgotten head is ABSENT, so that a probe phase lasts. -/
theorem advancePhase_linkForgotten_of_rest (hone : 1 ≤ h) (hle : h ≤ 32)
    (hphase : m.phase = .idle ∨ m.phase = .probe ∨ m.phase = .complete) :
    advancePhase (linkForgotten h m) = linkForgotten h m := by
  rcases hphase with hidle | hprobe | hcomplete
  · exact advancePhase_of_busy (.inr (.inr (.inl hidle)))
  · have habsent : tableGet HeadEntry.initial (linkForgotten h m).heads h = HeadEntry.initial := by
      simp only [linkForgotten, removeEntries, tableGet_tableSet_same]
    exact advancePhase_of_probe hprobe hone hle (by rw [habsent]; rfl)
  · exact advancePhase_of_busy (.inr (.inr (.inr hcomplete)))

end Link

/-! ### What FORGET-HEAD writes -/

section Forget

variable (h : Nat) (s : State)

/-- The state after the delivery of the head that is being taken. -/
def delivered : State := if s.oae.taking.map Taking.head = some h then endDelivery s else s

theorem writesDelivery_delivered : WritesDelivery s (delivered h s) := by
  unfold delivered
  split_ifs
  · exact writesDelivery_endDelivery s
  · rfl

theorem delivered_of_taking {k : Taking} (hk : s.oae.taking = some k) (hhead : k.head = h) : delivered h s = endDelivery s := by
  rw [delivered, hk]
  exact if_pos (congrArg some hhead)

theorem delivered_of_not (hno : ∀ k, s.oae.taking = some k → k.head ≠ h) : delivered h s = s := by
  refine if_neg fun hhead => ?_
  obtain ⟨k, hk, hkh⟩ := Option.map_eq_some_iff.1 hhead
  exact hno k hk hkh

theorem forgetHead_eq :
    forgetHead h s =
      { delivered h s with
        mlc := forgetExchange h (linkForgotten h s.mlc)
        ot := (markNoBaseline (fun k => decide ((addrOfKey k).head = h)) (delivered h s)).ot
        oae := { (delivered h s).oae with deliveries := s.oae.deliveries.filter fun d => decide (d.head ≠ h) }
        tp := { (delivered h s).tp with copies := (delivered h s).tp.copies.filter fun c => decide (c.head ≠ h) } } := by
  have hwrites := writesDelivery_delivered h s
  unfold WritesDelivery at hwrites
  have hmlc : (delivered h s).mlc = s.mlc := by rw [hwrites]
  have hdeliveries : (delivered h s).oae.deliveries = s.oae.deliveries := by rw [hwrites]
  unfold forgetHead
  rw [← delivered, ← hmlc, ← hdeliveries]
  simp only [bne_eq_decide_ne]
  rfl

theorem head_forgetHead (a : Nat) : (forgetHead h s).head a = (s.setHead h HeadEntry.initial).head a := by
  rw [State.head, forgetHead_eq, forgetExchange_eq]
  rfl

theorem ot_forgetHead : (forgetHead h s).ot = { s.ot with outlets := (forgetHead h s).ot.outlets } := by
  have hwrites := writesDelivery_delivered h s
  unfold WritesDelivery at hwrites
  have hot : (delivered h s).ot = { s.ot with outlets := (delivered h s).ot.outlets } := by rw [hwrites]
  rw [forgetHead_eq]
  simp only [markNoBaseline, State.onOt_ot]
  rw [hot]

theorem outlet_forgetHead (k : Nat) :
    (forgetHead h s).outlet k =
      if k / 48 = h then { (delivered h s).outlet k with baseline := .noBaseline } else (delivered h s).outlet k := by
  have hmark := outlet_markNoBaseline (fun k => decide ((addrOfKey k).head = h)) (delivered h s) k
  rw [State.outlet, forgetHead_eq]
  simp only [decide_eq_true_eq] at hmark
  exact hmark

/-- What the exchange in progress, the re-poll that is due and the phases make of FORGET-HEAD. -/
theorem forgetExchange_spec (hone : 1 ≤ h) (hle : h ≤ 32) {t : State} (m : MeterLink) (ht : t.mlc = forgetExchange h (linkForgotten h m)) :
    (∀ w, m.wait = some w → w.addr = h → t.mlc.wait = none ∧ (w.kind = .probe → t.mlc.phase = .complete) ∧
        (w.kind ≠ .probe → t.mlc.repollDue = none ∧ (m.phase = .poll → WalkFrom (h + 1) t.mlc))) ∧
      (∀ w, m.wait = some w → w.addr ≠ h → t.mlc.wait = some w ∧ t.mlc.repollDue = m.repollDue ∧
        (m.phase ≠ .switch → t.mlc.phase = m.phase ∧ t.mlc.pollPos = m.pollPos)) ∧
      (m.wait = none → t.mlc.wait = none ∧
        (m.repollDue = some h → t.mlc.repollDue = none ∧ (m.phase = .poll → WalkFrom (h + 1) t.mlc)) ∧
        (m.repollDue ≠ some h → t.mlc.repollDue = m.repollDue ∧
          (m.phase = .poll → m.repollDue = none → WalkFrom m.pollPos t.mlc) ∧
          (m.phase = .poll → m.repollDue ≠ none → t.mlc.phase = .poll ∧ t.mlc.pollPos = m.pollPos) ∧
          (m.phase = .idle ∨ m.phase = .probe ∨ m.phase = .complete → t.mlc.phase = m.phase ∧ t.mlc.pollPos = m.pollPos) ∧
          (m.phase = .switch → t.mlc.phase ≠ .switch → t.mlc.pollPos = 1 ∧ (m.repollDue = none → WalkFrom 1 t.mlc)) ∧
          (m.phase = .switch → (t.mlc.phase = .switch ↔
            ∃ e ∈ t.mlc.switchQueue.drop t.mlc.walkPos, (t.head e.addr.head).state = .present)))) := by
  refine ⟨fun w hwait haddr => ?own, fun w hwait haddr => ?other, fun hwait => ⟨?free, fun hdue => ?repoll, fun hdue => ?none⟩⟩
  case own =>
    rw [ht, forgetExchange_of_wait (m := linkForgotten h m) hwait haddr]
    refine ⟨by rw [endExchange_eq], fun hkind => by rw [hkind]; rfl, fun hkind => ⟨repollDue_endExchange hkind, fun hpoll => ?_⟩⟩
    exact walkFrom_endExchange hkind hpoll
  case other =>
    rw [ht, forgetExchange_of_other_wait (m := linkForgotten h m) hwait haddr]
    refine ⟨?_, ?_, fun hphase => ?_⟩
    · rw [advancePhase_eq]
      exact hwait
    · rw [advancePhase_eq]
      rfl
    · rw [advancePhase_of_wait (m := linkForgotten h m) hwait hphase]
      exact ⟨rfl, rfl⟩
  case free =>
    rw [ht]
    by_cases hdue : m.repollDue = some h
    · rw [forgetExchange_of_repoll (m := linkForgotten h m) hwait hdue, endExchange_eq]
    · rw [forgetExchange_of_no_exchange (m := linkForgotten h m) hwait hdue, advancePhase_eq]
      exact hwait
  case repoll =>
    have hkind : PollKind.repoll ≠ .probe := nofun
    rw [ht, forgetExchange_of_repoll (m := linkForgotten h m) hwait hdue]
    exact ⟨repollDue_endExchange hkind, fun hpoll => walkFrom_endExchange hkind hpoll⟩
  case none =>
    rw [forgetExchange_of_no_exchange (m := linkForgotten h m) hwait hdue] at ht
    refine ⟨?due, fun hpoll hnone => ?walk, fun hpoll hsome => ?held, fun hphase => ?rest, fun hphase hleft => ?left, fun hphase => ?iff⟩
    case due =>
      rw [ht, advancePhase_eq]
      rfl
    case walk =>
      rw [ht]
      exact walkFrom_advancePhase (m := linkForgotten h m) hpoll hwait hnone
    case held =>
      rw [ht, advancePhase_of_busy (m := linkForgotten h m) (.inl ⟨hpoll, .inr hsome⟩)]
      exact ⟨hpoll, rfl⟩
    case rest =>
      rw [ht, advancePhase_linkForgotten_of_rest hone hle hphase]
      exact ⟨rfl, rfl⟩
    case left =>
      rw [ht] at hleft ⊢
      obtain ⟨hpos, -, -, hwalk⟩ := (advancePhase_of_switch (m := linkForgotten h m) hphase).2.2 hleft
      exact ⟨hpos, hwalk hwait⟩
    case iff =>
      unfold State.head
      rw [ht, (advancePhase_of_switch (m := linkForgotten h m) hphase).1, advancePhase_eq]

end Forget

/-- Settles O21: FORGET-HEAD writes what `forgetHead_eq` says, and `forgetExchange_spec` says what it makes of the round. -/
theorem forgetHeadClearsTheEntry : Obligations.ForgetHeadClearsTheEntry := by
  intro tag h s hown
  have hexec : exec (.forgetHead tag h) s = .next (takeOrder (.forgetHead tag h) tag 0x20 (ownForgetHead h) s) := rfl
  refine ⟨fun hbad => ?ranges, fun hone hle => ?done⟩
  case ranges =>
    refine refused_of_owner hexec hown (if_neg ?_)
    rw [validHead_iff]
    exact hbad
  case done =>
    have howner : ownForgetHead h s = (forgetHead h s, Answer.done (headBytes (s.head h))) := if_pos ((validHead_iff h).2 ⟨hone, hle⟩)
    have hmlc : (forgetHead h s).mlc = forgetExchange h (linkForgotten h s.mlc) := by rw [forgetHead_eq]
    have hlink := forgetExchange_eq h (linkForgotten h s.mlc)
    rw [← hmlc] at hlink
    obtain ⟨hwait, hother, hfree⟩ := forgetExchange_spec h hone hle
      (t := { forgetHead h s with tp := replied tag 0x20 .done (headBytes (s.head h)) (forgetHead h s).tp }) s.mlc hmlc
    refine ⟨delivered h s, _, exec_order_of_atOwner hexec hown howner, ?ended, delivered_of_not h s, ?frame, ?reply, ?engine, ?head,
      fun a ha => ?otherHead, ot_forgetHead h s, fun k hk => ?outlet, fun k hk => ?otherOutlet, ?queue, ?marks, ?tally, ?pointer, ?sync, ?due,
      ?sent, hwait, hother, hfree, ?walk⟩
    case ended =>
      rintro ⟨k, hk, hhead⟩
      rw [delivered_of_taking h s hk hhead]
      exact deliveryEnded_endDelivery s
    case frame => rw [forgetHead_eq]
    case reply =>
      rw [forgetHead_eq]
      exact congrArg (fun result => replied tag 0x20 .done result _) (headBytes_eq (s.head h))
    case engine => rw [forgetHead_eq]
    case head => exact (head_forgetHead h s h).trans (State.head_setHead_same s h _)
    case otherHead => exact (head_forgetHead h s a).trans (State.head_setHead_other s _ ha.symm)
    case outlet => exact (outlet_forgetHead h s k).trans (if_pos hk)
    case otherOutlet => exact (outlet_forgetHead h s k).trans (if_neg hk)
    case queue =>
      rw [← entryOf_not_eq]
      exact congrArg MeterLink.switchQueue hlink
    case marks => exact (congrArg MeterLink.marks hlink).trans rfl
    case tally => exact (congrArg MeterLink.tally hlink).trans rfl
    case pointer => exact (congrArg MeterLink.probePointer hlink).trans rfl
    case sync => exact (congrArg MeterLink.syncDue hlink).trans rfl
    case due => exact (congrArg MeterLink.roundEndDue hlink).trans rfl
    case sent => exact (congrArg MeterLink.lastSent hlink).trans rfl
    case walk =>
      rw [← entryOf_not_eq]
      exact congrArg MeterLink.walkPos hlink

end Sys2Proof.Stated
end

section

/-! ### RELEASE-OUTLET and READ-OUTLET -/

namespace Sys2Proof.Stated

open Sys2Proof.Machine

/-! ### The bytes of an outlet record -/

@[simp] theorem length_be (k v : Nat) : (be k v).length = k := by
  induction k with
  | zero => rfl
  | succ k ih => rw [be, List.length_cons, ih]

/-- A list of byte groups of one length is that many bytes for each group. -/
theorem length_flatMap_of_const {α : Type} {f : α → List Byte} {n : Nat} (hf : ∀ a, (f a).length = n) (l : List α) :
    (l.flatMap f).length = n * l.length := by
  induction l with
  | nil => rfl
  | cons a l ih =>
    rw [List.flatMap_cons, List.length_append, hf, ih, List.length_cons, Nat.mul_succ, Nat.add_comm]

/-- The six bytes of a share slot. -/
def shareSlot (e : ShareEntry) : List Byte := [b1 e.tenant] ++ be 2 e.share ++ be 3 e.rate

theorem shareSlots_eq (shares : List ShareEntry) :
    shareSlots shares = (shares.take 4).flatMap shareSlot ++ List.replicate (24 - 6 * (shares.take 4).length) 0#8 := by
  have hslot : (fun e : ShareEntry => be 1 e.tenant ++ be 2 e.share ++ be 3 e.rate) = shareSlot := by
    funext e
    rw [be_one, shareSlot]
  rw [shareSlots, hslot]
  rw [length_flatMap_of_const (n := 6) (fun e => by simp [shareSlot])]

/-- READ-OUTLET's record: the statement's bytes and the tag of a completion owed. -/
theorem outletBytes_eq (h o : Nat) (x : Outlet) :
    outletBytes { head := h, outlet := o } x = outletRecord h o x ++ [x.completionOwed.getD 0#8] := by
  have hbinding : b1 x.binding.code = match x.binding with | .unbound => 0#8 | .bound => 1#8 | .releasing => 2#8 := by
    cases x.binding <;> rfl
  have hfeed : b1 x.feed.code = match x.feed with | .a => 0#8 | .b => 1#8 := by cases x.feed <;> rfl
  have hbaseline : b1 x.baseline.code = match x.baseline with | .noBaseline => 0#8 | .live => 1#8 | .stale => 2#8 := by
    cases x.baseline <;> rfl
  have hswitch : b1 x.switchState.code = switchByte x.switchState := by cases x.switchState <;> rfl
  unfold outletBytes outletRecord
  simp only [be_one, shareSlots_eq, hbinding, hfeed, hbaseline, hswitch, flagByte, flagOf, List.append_assoc, List.cons_append,
    List.nil_append]
  rfl

theorem length_outletRecord (h o : Nat) (x : Outlet) (owed : Byte) : (outletRecord h o x ++ [owed]).length = 50 := by
  have hslots : ((x.shares.take 4).flatMap fun e => [b1 e.tenant] ++ be 2 e.share ++ be 3 e.rate).length = 6 * (x.shares.take 4).length :=
    length_flatMap_of_const (fun e => by simp) _
  have hfour : (x.shares.take 4).length ≤ 4 := List.length_take_le 4 x.shares
  unfold outletRecord
  simp only [List.length_append, List.length_cons, List.length_nil, List.length_replicate, length_be, hslots]
  omega

/-! ### What OT answers -/

section Release

variable {tag : Byte} {h o : Nat} {s : State}

theorem ownReleaseOutlet_of_not_outlet (hr : ¬ IsOutlet h o) : ownReleaseOutlet tag h o s = (s, .plain .invalidParameter) := by
  rw [← validOutlet_iff, Bool.not_eq_true] at hr
  exact if_pos hr

theorem ownReleaseOutlet_of_locked (hr : IsOutlet h o) (hl : SomeLocked s (s.outlet (h * 48 + o))) :
    ownReleaseOutlet tag h o s = (s, .plain .locked) := by
  rw [← validOutlet_iff] at hr
  rw [ownReleaseOutlet, outletKey_eq, if_neg (by simp [hr]), if_pos ((outletLocked_iff s _).2 hl)]

/-- Past the lock check the binding decides. -/
theorem ownReleaseOutlet_of_unlocked (hr : IsOutlet h o) (hl : ¬ SomeLocked s (s.outlet (h * 48 + o))) :
    ownReleaseOutlet tag h o s =
      match (s.outlet (h * 48 + o)).binding with
      | .unbound => (s, .plain .incorrectState)
      | .releasing => (s, .plain .busy)
      | .bound => (releaseOutlet tag (h * 48 + o) s, .plain .accepted) := by
  rw [← validOutlet_iff] at hr
  have hrange : ¬ validOutlet h o = false := by simp [hr]
  exact (if_neg hrange).trans (if_neg (mt (outletLocked_iff s _).1 hl))

theorem ownReadOutlet_of_outlet (hr : IsOutlet h o) :
    ownReadOutlet h o s = (s, .done (outletBytes { head := h, outlet := o } (s.outlet (h * 48 + o)))) := by
  rw [← validOutlet_iff] at hr
  rw [ownReadOutlet, outletKey_eq, if_pos hr]

theorem ownReadOutlet_of_not_outlet (hr : ¬ IsOutlet h o) : ownReadOutlet h o s = (s, .plain .invalidParameter) := by
  rw [← validOutlet_iff] at hr
  exact if_neg hr

end Release

/-- Settles O24: OT's checks of RELEASE-OUTLET in their order, and the bytes READ-OUTLET hands back. -/
theorem releaseAndReadOutlet : Obligations.ReleaseAndReadOutlet := by
  refine ⟨fun tag h o s hown => ?release, fun tag h o s hown => ?read, fun k v => ⟨rfl, rfl, rfl⟩⟩
  case release =>
    have hexec : exec (.releaseOutlet tag h o) s = .next (takeOrder (.releaseOutlet tag h o) tag 0x32 (ownReleaseOutlet tag h o) s) := rfl
    refine ⟨fun hbad => ?range, fun hr hl => ?locked, fun hr hl => ⟨fun hb => ?unbound, fun hb => ?busy, fun hb => ?accepted⟩⟩
    case range => exact refused_of_owner hexec hown (ownReleaseOutlet_of_not_outlet hbad)
    case locked => exact refused_of_owner hexec hown (ownReleaseOutlet_of_locked hr hl)
    all_goals have howner := ownReleaseOutlet_of_unlocked (tag := tag) hr hl
    case unbound => exact refused_of_owner hexec hown (by rw [howner, hb])
    case busy => exact refused_of_owner hexec hown (by rw [howner, hb])
    case accepted =>
      rw [hb] at howner
      exact ⟨_, oneOutlet_setOutlet s _ _, exec_order_of_atOwner hexec hown howner⟩
  case read =>
    have hexec : exec (.readOutlet tag h o) s = .next (takeOrder (.readOutlet tag h o) tag 0x33 (ownReadOutlet h o) s) := rfl
    refine ⟨fun hbad => refused_of_owner hexec hown (ownReadOutlet_of_not_outlet hbad), ?_⟩
    rintro x hr rfl
    refine ⟨(s.outlet (h * 48 + o)).completionOwed.getD 0#8, fun tg htg => by rw [htg]; rfl, length_outletRecord h o _ _, ?_⟩
    rw [← outletBytes_eq]
    exact exec_order_of_atOwner hexec hown (ownReadOutlet_of_outlet hr)

end Sys2Proof.Stated
end

section

/-! ### What OAE keeps of the tenants -/

namespace Sys2Proof.Stated

open Sys2Proof.Machine

theorem account_setAccount_other (s : State) {k n : Nat} (v : Account) (h : n ≠ k) : (s.setAccount k v).account n = s.account n :=
  tableGet_tableSet_other _ _ _ h.symm

/-- A fold of operations that each write one account writes no other. -/
theorem account_foldl_of_notMem {α : Type} {key : α → Nat} {f : State → α → State}
    (hother : ∀ s a n, n ≠ key a → (f s a).account n = s.account n) {l : List α} {n : Nat} (h : ∀ a ∈ l, key a ≠ n) (s : State) :
    (l.foldl f s).account n = s.account n := by
  induction l generalizing s with
  | nil => rfl
  | cons a l ih =>
    rw [List.foldl_cons, ih (fun x hx => h x (List.mem_cons_of_mem _ hx)), hother s a n (h a List.mem_cons_self).symm]

/-- A fold of operations that each write an account of their own writes each of them once. -/
theorem account_foldl_of_mem {α : Type} {key : α → Nat} {g : α → Account → Account} {f : State → α → State}
    (hsame : ∀ s a, (f s a).account (key a) = g a (s.account (key a)))
    (hother : ∀ s a n, n ≠ key a → (f s a).account n = s.account n) {l : List α} (hnodup : (l.map key).Nodup) {a : α} (ha : a ∈ l) (s : State) :
    (l.foldl f s).account (key a) = g a (s.account (key a)) := by
  induction l generalizing s with
  | nil => cases ha
  | cons b l ih =>
    obtain ⟨hb, hnodup⟩ := List.nodup_cons.1 hnodup
    rw [List.foldl_cons]
    rcases List.mem_cons.1 ha with rfl | ha
    · rw [account_foldl_of_notMem hother (fun x hx heq => hb (List.mem_map.2 ⟨x, hx, heq⟩)), hsame]
    · have hne : key a ≠ key b := fun heq => hb (heq ▸ List.mem_map_of_mem ha)
      rw [ih hnodup ha, hother s b _ hne]

section Accounts

variable (s : State) {n : Nat}

theorem account_markIncomplete_of_notMem {ns : List Nat} (h : n ∉ ns) : (markIncomplete ns s).account n = s.account n :=
  account_foldl_of_notMem (key := id) (fun s _ _ hk => account_setAccount_other s _ hk) (fun _ ha => ne_of_mem_of_not_mem ha h) s

/-- The mark is set once or more often. -/
theorem account_markIncomplete_of_mem {ns : List Nat} (h : n ∈ ns) :
    (markIncomplete ns s).account n = { s.account n with incomplete := true } := by
  induction ns generalizing s with
  | nil => cases h
  | cons k ns ih =>
    have hstep : markIncomplete (k :: ns) s = markIncomplete ns (s.setAccount k { s.account k with incomplete := true }) := rfl
    rw [hstep]
    by_cases hns : n ∈ ns
    · rw [ih _ hns]
      by_cases hk : n = k
      · rw [hk, State.account_setAccount_same]
      · rw [account_setAccount_other s _ hk]
    · obtain rfl := (List.mem_cons.1 h).resolve_right hns
      rw [account_markIncomplete_of_notMem _ hns, State.account_setAccount_same]

/-- An account with the rate sum of a feed moved. -/
def rateMoved (f : Feed) (old new : Nat) (a : Account) : Account :=
  match f with
  | .a => { a with rateA := min 4294967295 (a.rateA + new - old) }
  | .b => { a with rateB := min 4294967295 (a.rateB + new - old) }

/-- An account with energy credited on a feed. -/
def energyAdded (f : Feed) (energy : Nat) (a : Account) : Account :=
  match f with
  | .a => { a with accA := min 281474976710655 (a.accA + energy) }
  | .b => { a with accB := min 281474976710655 (a.accB + energy) }

theorem adjustRate_eq (k : Nat) (f : Feed) (old new : Nat) :
    adjustRate k f old new s = s.setAccount k (rateMoved f old new (s.account k)) := by cases f <;> rfl

theorem credit_eq (k : Nat) (f : Feed) (energy : Nat) : credit k f energy s = s.setAccount k (energyAdded f energy (s.account k)) := by
  cases f <;> rfl

theorem account_removeRates_of_notMem (f : Feed) {shares : List ShareEntry} (h : ∀ e ∈ shares, e.tenant ≠ n) :
    (removeRates f shares s).account n = s.account n :=
  account_foldl_of_notMem (fun s e n hn => by rw [adjustRate_eq]; exact account_setAccount_other s _ hn) h s

theorem account_removeRates_of_mem (f : Feed) {shares : List ShareEntry} (hnodup : (shares.map ShareEntry.tenant).Nodup) {e : ShareEntry}
    (he : e ∈ shares) : (removeRates f shares s).account e.tenant = rateMoved f e.rate 0 (s.account e.tenant) :=
  account_foldl_of_mem (key := ShareEntry.tenant) (g := fun e => rateMoved f e.rate 0) (f := fun s e => adjustRate e.tenant f e.rate 0 s)
    (fun s e => by rw [adjustRate_eq, State.account_setAccount_same])
    (fun s e n hn => by rw [adjustRate_eq]; exact account_setAccount_other s _ hn) hnodup he s

/-- What one part makes of its tenant's account. -/
def partAttributed (f : Feed) (seconds : Nat) (p : ShareEntry × Nat) (a : Account) : Account :=
  rateMoved f p.1.rate (p.2 / seconds) (energyAdded f p.2 a)

theorem attributePart_eq (f : Feed) (seconds : Nat) (p : ShareEntry × Nat) (n : Nat) :
    (adjustRate p.1.tenant f p.1.rate (p.2 / seconds) (credit p.1.tenant f p.2 s)).account n =
      (s.setAccount p.1.tenant (partAttributed f seconds p (s.account p.1.tenant))).account n := by
  rw [credit_eq, adjustRate_eq, State.account_setAccount_same]
  by_cases hn : n = p.1.tenant
  · rw [hn, State.account_setAccount_same, State.account_setAccount_same]
    rfl
  · rw [account_setAccount_other _ _ hn, account_setAccount_other _ _ hn, account_setAccount_other _ _ hn]

theorem account_attributeParts_of_notMem (f : Feed) (seconds : Nat) {pairs : List (ShareEntry × Nat)}
    (h : ∀ p ∈ pairs, p.1.tenant ≠ n) : (attributeParts f seconds pairs s).account n = s.account n :=
  account_foldl_of_notMem (key := fun p : ShareEntry × Nat => p.1.tenant)
    (fun s p n hn => by rw [attributePart_eq]; exact account_setAccount_other s _ hn) h s

theorem account_attributeParts_of_mem (f : Feed) (seconds : Nat) {pairs : List (ShareEntry × Nat)}
    (hnodup : (pairs.map fun p => p.1.tenant).Nodup) {p : ShareEntry × Nat} (hp : p ∈ pairs) :
    (attributeParts f seconds pairs s).account p.1.tenant = partAttributed f seconds p (s.account p.1.tenant) :=
  account_foldl_of_mem (key := fun p : ShareEntry × Nat => p.1.tenant) (g := partAttributed f seconds)
    (fun s p => by rw [attributePart_eq, State.account_setAccount_same])
    (fun s p n hn => by rw [attributePart_eq]; exact account_setAccount_other s _ hn) hnodup hp s

end Accounts

/-! ### Latches by what they read -/

/-- A latch reads the tenant's state and writes the cause sets. -/
theorem latchTenant_nu_congr {s t : State} (c : TenantCause) (n : Nat) (htl : s.tl = t.tl) (hnu : s.nu = t.nu) :
    (latchTenant c n s).nu = (latchTenant c n t).nu := by
  unfold latchTenant State.tenant State.setCauses State.causes State.onNu
  rw [htl]
  split_ifs
  · exact hnu
  · simp only [hnu]

theorem latchTenants_nu_congr (c : TenantCause) (ns : List Nat) {s t : State} (htl : s.tl = t.tl) (hnu : s.nu = t.nu) :
    (latchTenants c ns s).nu = (latchTenants c ns t).nu := by
  induction ns generalizing s t with
  | nil => exact hnu
  | cons n ns ih =>
    have hstep : ∀ u, latchTenants c (n :: ns) u = latchTenants c ns (latchTenant c n u) := fun u => rfl
    have hsame : ∀ u, (latchTenant c n u).tl = u.tl := fun u => by rw [writesNu_latchTenant c n u]
    rw [hstep, hstep, ih (by rw [hsame, hsame, htl]) (latchTenant_nu_congr c n htl hnu)]

end Sys2Proof.Stated
end

section

/-! ### One record -/

namespace Sys2Proof.Stated

open Sys2Proof.Machine

theorem listed_iff (o : Outlet) : o.listed = true ↔ o.binding ≠ .unbound := decide_eq_true_iff

theorem listed_eq_false_iff (o : Outlet) : o.listed = false ↔ o.binding = .unbound := by
  rw [← Bool.not_eq_true, listed_iff, not_not]

theorem annotated_annotate (o : Outlet) (r : MeterRecord) (flag : RecordFlag) (delta : Nat) :
    Annotated o r flag delta (annotate o r flag delta) := by
  refine ⟨rfl, fun h => if_neg (mt (listed_iff o).1 (not_not.2 h)), fun e rest h hshares => ?_⟩
  have hprimary : (annotate o r flag delta).primary = o.primary := if_pos ((listed_iff o).2 h)
  rw [hprimary, Outlet.primary, hshares]

theorem ceiling_eq (s : State) (o : Outlet) (k : Nat) : plausibilityCeiling s.ct.config o k = ceiling s o k := by
  have hvolt : s.ct.config.voltage o.feed = if o.feed = .a then s.ct.config.voltA else s.ct.config.voltB := by cases o.feed <;> rfl
  rw [plausibilityCeiling, ceiling, hvolt]

section Record

variable {h : Nat} {stamp : Period} {r : MeterRecord} {s : State} {o : Outlet}

theorem takeRecord_of_first (ho : o = s.outlet (h * 48 + r.outlet)) (hb : o.baseline = .noBaseline) :
    takeRecord h stamp r s =
      (if s.ct.collectingOpen && o.listed then markIncomplete o.tenants (s.setOutlet (h * 48 + r.outlet) (rebased o stamp r))
        else s.setOutlet (h * 48 + r.outlet) (rebased o stamp r), annotate o r .baseline 0) := by
  have hcase : recordCase s.ct.config s.ct.collectingOpen o stamp r.counter = .baseline := if_pos hb
  have hkey : OutletAddr.key { head := h, outlet := r.outlet } = h * 48 + r.outlet := rfl
  rw [takeRecord, hkey]
  dsimp only
  rw [← ho, hcase]
  rfl

theorem takeRecord_of_repeat (ho : o = s.outlet (h * 48 + r.outlet)) (hb : o.baseline ≠ .noBaseline) (hk : (stamp - o.lastStamp).toNat = 0) :
    takeRecord h stamp r s = (s.setOutlet (h * 48 + r.outlet) { o with switchState := r.switchState }, annotate o r .normal 0) := by
  have hcase : recordCase s.ct.config s.ct.collectingOpen o stamp r.counter = .repeated := by
    rw [recordCase, if_neg hb, elapsed, if_pos hk]
  have hkey : OutletAddr.key { head := h, outlet := r.outlet } = h * 48 + r.outlet := rfl
  rw [takeRecord, hkey]
  dsimp only
  rw [← ho, hcase]

theorem takeRecord_of_no_period (ho : o = s.outlet (h * 48 + r.outlet)) (hb : o.baseline ≠ .noBaseline)
    (hk : (stamp - o.lastStamp).toNat ≠ 0) (hopen : s.ct.collectingOpen = false) :
    takeRecord h stamp r s = (s.setOutlet (h * 48 + r.outlet) (rebased o stamp r), annotate o r .baseline 0) := by
  have hcase : recordCase s.ct.config s.ct.collectingOpen o stamp r.counter = .baselineOnly := by
    rw [recordCase, if_neg hb, elapsed, if_neg hk, if_pos hopen]
  have hkey : OutletAddr.key { head := h, outlet := r.outlet } = h * 48 + r.outlet := rfl
  rw [takeRecord, hkey]
  dsimp only
  rw [← ho, hcase]
  rfl

theorem takeRecord_of_gap (ho : o = s.outlet (h * 48 + r.outlet)) (hb : o.baseline ≠ .noBaseline) (hopen : s.ct.collectingOpen = true)
    (hk : 256 ≤ (stamp - o.lastStamp).toNat) :
    takeRecord h stamp r s = (suspect o (s.setOutlet (h * 48 + r.outlet) (rebased o stamp r)), annotate o r .gap 0) := by
  have hpos : (stamp - o.lastStamp).toNat ≠ 0 := by omega
  have hcase : recordCase s.ct.config s.ct.collectingOpen o stamp r.counter = .gap := by
    rw [recordCase, if_neg hb, elapsed, if_neg hpos, if_neg (by simp [hopen])]
    exact if_pos hk
  have hkey : OutletAddr.key { head := h, outlet := r.outlet } = h * 48 + r.outlet := rfl
  rw [takeRecord, hkey]
  dsimp only
  rw [← ho, hcase]
  rfl

/-- Past the gap check the ceiling decides. -/
theorem recordCase_of_near (hb : o.baseline ≠ .noBaseline) (hopen : s.ct.collectingOpen = true) (hpos : (stamp - o.lastStamp).toNat ≠ 0)
    (hk : (stamp - o.lastStamp).toNat < 256) :
    recordCase s.ct.config s.ct.collectingOpen o stamp r.counter =
      if ceiling s o (stamp - o.lastStamp).toNat < (r.counter - o.lastCounter).toNat then .discontinuity
      else .plausible (r.counter - o.lastCounter).toNat (stamp - o.lastStamp).toNat := by
  have hnear : ¬ Config.gapPeriods ≤ elapsed o stamp := Nat.not_le.2 hk
  rw [recordCase, if_neg hb, elapsed, if_neg hpos, if_neg (by simp [hopen])]
  rw [elapsed] at hnear
  rw [if_neg hnear, ceiling_eq]
  rfl

theorem takeRecord_of_discontinuity (ho : o = s.outlet (h * 48 + r.outlet)) (hb : o.baseline ≠ .noBaseline)
    (hopen : s.ct.collectingOpen = true) (hpos : (stamp - o.lastStamp).toNat ≠ 0) (hk : (stamp - o.lastStamp).toNat < 256)
    (habove : ceiling s o (stamp - o.lastStamp).toNat < (r.counter - o.lastCounter).toNat) :
    takeRecord h stamp r s =
      (suspect o (s.setOutlet (h * 48 + r.outlet) { rebased o stamp r with discontinuities := min 15 (o.discontinuities + 1) }),
        annotate o r .discontinuity 0) := by
  have hcase := (recordCase_of_near (s := s) (r := r) hb hopen hpos hk).trans (if_pos habove)
  have hkey : OutletAddr.key { head := h, outlet := r.outlet } = h * 48 + r.outlet := rfl
  rw [takeRecord, hkey]
  dsimp only
  rw [← ho, hcase]
  rfl

theorem takeRecord_of_plausible (ho : o = s.outlet (h * 48 + r.outlet)) (hb : o.baseline ≠ .noBaseline)
    (hopen : s.ct.collectingOpen = true) (hpos : (stamp - o.lastStamp).toNat ≠ 0) (hk : (stamp - o.lastStamp).toNat < 256)
    (hbelow : (r.counter - o.lastCounter).toNat ≤ ceiling s o (stamp - o.lastStamp).toNat) :
    takeRecord h stamp r s =
      if o.listed then
        (takeBound (h * 48 + r.outlet) o stamp r (r.counter - o.lastCounter).toNat ((stamp - o.lastStamp).toNat * s.ct.config.il) s,
          annotate o r .normal (r.counter - o.lastCounter).toNat)
      else
        (takeUnbound (h * 48 + r.outlet) o stamp r (r.counter - o.lastCounter).toNat ((stamp - o.lastStamp).toNat * s.ct.config.il) s,
          annotate o r .unbound (r.counter - o.lastCounter).toNat) := by
  have hcase := (recordCase_of_near (s := s) (r := r) hb hopen hpos hk).trans (if_neg (Nat.not_lt.2 hbelow))
  have hkey : OutletAddr.key { head := h, outlet := r.outlet } = h * 48 + r.outlet := rfl
  rw [takeRecord, hkey]
  dsimp only
  rw [← ho, hcase]

end Record

/-- The share tenants of a bound outlet become suspect, and nothing else is written beside the record. -/
theorem suspected_suspect (k : Nat) (o o' : Outlet) (s : State) : Suspected k o o' s (suspect o (s.setOutlet k o')) := by
  obtain ⟨-, hone, hother⟩ := oneOutlet_setOutlet s k o'
  by_cases hb : o.binding = .unbound
  · have hskip : suspect o (s.setOutlet k o') = s.setOutlet k o' := if_neg (mt (listed_iff o).1 (not_not.2 hb))
    rw [hskip]
    exact ⟨rfl, rfl, hone, hother, rfl, fun _ => ⟨rfl, rfl⟩, fun h => absurd hb h⟩
  · have hdo : suspect o (s.setOutlet k o') = latchTenants .outletSuspect o.tenants (markIncomplete o.tenants (s.setOutlet k o')) :=
      if_pos ((listed_iff o).2 hb)
    have hmark := writesAccounts_markIncomplete o.tenants (s.setOutlet k o')
    have hlatch := writesNu_latchTenants .outletSuspect o.tenants (markIncomplete o.tenants (s.setOutlet k o'))
    have hot : (suspect o (s.setOutlet k o')).ot = (s.setOutlet k o').ot := by rw [hdo, hlatch, hmark]
    have hoae : (suspect o (s.setOutlet k o')).oae = (markIncomplete o.tenants (s.setOutlet k o')).oae := by rw [hdo, hlatch]
    have hmem : ∀ n, n ∈ o.tenants ↔ ∃ e ∈ o.shares, e.tenant = n := fun n => List.mem_map
    refine ⟨?frame, ?table, ?same, fun j hj => ?others, ?engine, fun h => absurd h hb, fun _ => ⟨?latched, fun n hn => ?marked, fun n hn => ?kept⟩⟩
    case frame =>
      rw [hdo, hlatch, hmark]
      rfl
    case table => rw [hot]; rfl
    case same => rw [State.outlet, hot]; exact hone
    case others => rw [State.outlet, hot]; exact hother j hj
    case engine =>
      rw [hoae, hmark]
      rfl
    case latched =>
      rw [hdo]
      exact latchTenants_nu_congr .outletSuspect o.tenants (by rw [hmark]; rfl) (by rw [hmark]; rfl)
    case marked =>
      rw [State.account, hoae]
      exact account_markIncomplete_of_mem _ ((hmem n).2 hn)
    case kept =>
      rw [State.account, hoae]
      exact account_markIncomplete_of_notMem _ fun h => (hmem n).1 h |>.elim fun e he => hn e he.1 he.2

/-- Settles O26: by the case of the record. -/
theorem recordThatAttributesNothing : Obligations.RecordThatAttributesNothing := by
  rintro h stamp r s o k ho rfl
  refine ⟨fun hb hidle => ?unowned, fun hb hopen hbound => ?first, fun hb hk => ?repeated, fun hb hk hopen => ?stopped,
    fun hb hopen hk => ?gap, fun hb hopen hpos hk habove => ?jump⟩
  case unowned =>
    have hno : ¬ (s.ct.collectingOpen && o.listed) = true := by
      rw [Bool.and_eq_true, listed_iff]
      rintro ⟨hopen, hbound⟩
      exact hidle.elim (fun hclosed => by rw [hopen] at hclosed; cases hclosed) hbound
    rw [takeRecord_of_first ho hb, if_neg hno]
    exact ⟨oneOutlet_setOutlet s _ _, annotated_annotate o r _ _⟩
  case first =>
    have hyes : (s.ct.collectingOpen && o.listed) = true := by rw [Bool.and_eq_true, listed_iff]; exact ⟨hopen, hbound⟩
    have hmem : ∀ n, n ∈ o.tenants ↔ ∃ e ∈ o.shares, e.tenant = n := fun n => List.mem_map
    rw [takeRecord_of_first ho hb, if_pos hyes]
    refine ⟨annotated_annotate o r _ _, _, oneOutlet_setOutlet s _ _, writesAccounts_markIncomplete o.tenants _,
      fun n hn => account_markIncomplete_of_mem _ ((hmem n).2 hn), fun n hn => account_markIncomplete_of_notMem _ fun hin => ?_⟩
    obtain ⟨e, he, htenant⟩ := (hmem n).1 hin
    exact hn e he htenant
  case repeated =>
    rw [takeRecord_of_repeat ho hb hk]
    exact ⟨oneOutlet_setOutlet s _ _, annotated_annotate o r _ _⟩
  case stopped =>
    rw [takeRecord_of_no_period ho hb hk hopen]
    exact ⟨oneOutlet_setOutlet s _ _, annotated_annotate o r _ _⟩
  case gap =>
    rw [takeRecord_of_gap ho hb hopen hk]
    exact ⟨suspected_suspect _ o _ s, annotated_annotate o r _ _⟩
  case jump =>
    rw [takeRecord_of_discontinuity ho hb hopen hpos hk habove]
    exact ⟨suspected_suspect _ o _ s, annotated_annotate o r _ _⟩

theorem length_splitDelta (d : Nat) (shares : List ShareEntry) : (splitDelta d shares).length = shares.length := by
  cases shares with
  | nil => rfl
  | cons e others => simp [splitDelta]

/-- Each entry of a share list has its part. -/
theorem map_tenant_zip_splitDelta (d : Nat) (shares : List ShareEntry) :
    (shares.zip (splitDelta d shares)).map (fun p => p.1.tenant) = shares.map ShareEntry.tenant := by
  have hfst : (shares.zip (splitDelta d shares)).map Prod.fst = shares := List.map_fst_zip (length_splitDelta d shares).ge
  rw [← congrArg (List.map ShareEntry.tenant) hfst, List.map_map]
  rfl

/-- The unattributed accumulator takes the delta, and a rate above the threshold is latched. -/
theorem takeUnbound_eq (key : Nat) (o : Outlet) (stamp : Period) (r : MeterRecord) (delta seconds : Nat) (s : State) :
    takeUnbound key o stamp r delta seconds s =
      { (if s.ct.config.threshold ≠ 0 ∧ s.ct.config.threshold < delta / seconds then
            latchUnit .unattributedDraw (s.setOutlet key { rebased o stamp r with unattributedRate := delta / seconds })
          else s.setOutlet key { rebased o stamp r with unattributedRate := delta / seconds }) with
        oae := { s.oae with unattributed := min 281474976710655 (s.oae.unattributed + delta) } } := by
  by_cases h : s.ct.config.threshold ≠ 0 ∧ s.ct.config.threshold < delta / seconds
  · have hlatch : takeUnbound key o stamp r delta seconds s = latchUnit .unattributedDraw _ := if_pos h
    rw [if_pos h, hlatch]
    rfl
  · have hstill : takeUnbound key o stamp r delta seconds s = State.setOutlet _ _ _ := if_neg h
    rw [if_neg h, hstill]
    rfl

/-- Settles O27: of an UNBOUND outlet by `takeUnbound`, of another by its parts. -/
theorem plausibleRecordIsAttributed : Obligations.PlausibleRecordIsAttributed := by
  rintro h stamp r s o k d ho rfl rfl hb hopen hpos hk hbelow
  have htake := takeRecord_of_plausible ho hb hopen hpos hk hbelow
  refine ⟨fun hunbound => ?unbound, fun hbound hnodup => ?bound⟩
  case unbound =>
    rw [if_neg (mt (listed_iff o).1 (not_not.2 hunbound))] at htake
    rw [htake]
    refine ⟨annotated_annotate o r _ _, _, oneOutlet_setOutlet s _ _, ?_⟩
    exact takeUnbound_eq _ o stamp r _ _ s
  case bound =>
    rw [if_pos ((listed_iff o).2 hbound)] at htake
    rw [htake]
    have hparts := map_tenant_zip_splitDelta (r.counter - o.lastCounter).toNat o.shares
    have hwrites := writesAccounts_attributeParts o.feed ((stamp - o.lastStamp).toNat * s.ct.config.il)
      (o.shares.zip (splitDelta (r.counter - o.lastCounter).toNat o.shares)) s
    refine ⟨annotated_annotate o r _ _, _, oneOutlet_setOutlet s _ _, ?frame, fun p hp => ?part, fun n hn => ?other⟩
    case frame =>
      unfold takeBound
      dsimp only
      rw [hwrites]
      rfl
    case part =>
      have haccount := account_attributeParts_of_mem s o.feed ((stamp - o.lastStamp).toNat * s.ct.config.il)
        (hparts ▸ hnodup) hp
      refine ⟨fun hfeed => ?_, fun hfeed => ?_⟩
      · rw [hfeed] at haccount
        rw [takeBound, hfeed]
        exact haccount
      · rw [hfeed] at haccount
        rw [takeBound, hfeed]
        exact haccount
    case other =>
      refine account_attributeParts_of_notMem s o.feed _ fun p hp htenant => ?_
      obtain ⟨e, he, heq⟩ := List.mem_map.1 (hparts ▸ List.mem_map_of_mem (f := fun p : ShareEntry × Nat => p.1.tenant) hp)
      exact hn e he (heq.trans htenant)

end Sys2Proof.Stated
end

section

/-! ### The steps of a close -/

namespace Sys2Proof.Stated

open Sys2Proof.Machine

/-! ### The sweep, the totals, the zeroing -/

theorem sweepDrops_iff (c : Period) (limit : Nat) (lost : Bool) (o : Outlet) :
    sweepDrops c limit lost o = true ↔ o.baseline ≠ .stale ∧ (limit < (c + 1 - o.lastStamp).toNat ∨ lost = true) := by
  simp only [sweepDrops, Bool.and_eq_true, Bool.or_eq_true, decide_eq_true_eq]

theorem sweepOutlet_of_dropped {c : Period} {key : Nat} {s : State} (hb : (s.outlet key).baseline ≠ .stale)
    (hold : s.ct.config.staleLimit < (c + 1 - (s.outlet key).lastStamp).toNat ∨ (s.head (key / 48)).state = .lost) :
    sweepOutlet c key s = (removeRates (s.outlet key).feed (s.outlet key).shares s).setOutlet key (s.outlet key).dropped :=
  if_pos ((sweepDrops_iff _ _ _ _).2 ⟨hb, hold.imp_right decide_eq_true⟩)

theorem sweepOutlet_of_left {c : Period} {key : Nat} {s : State}
    (h : (s.outlet key).baseline = .stale ∨
      (c + 1 - (s.outlet key).lastStamp).toNat ≤ s.ct.config.staleLimit ∧ (s.head (key / 48)).state ≠ .lost) :
    sweepOutlet c key s = s := by
  refine if_neg fun hdrop => ?_
  obtain ⟨hb, hold⟩ := (sweepDrops_iff _ _ _ _).1 hdrop
  rcases h with hstale | ⟨hfresh, hhead⟩
  · exact hb hstale
  · exact hold.elim (Nat.not_lt.2 hfresh) fun hlost => hhead (of_decide_eq_true hlost)

/-- Each rate of a share list leaves the sum of its tenant. -/
theorem account_removeRates_feeds (s : State) {o : Outlet} (hnodup : (o.shares.map ShareEntry.tenant).Nodup) {e : ShareEntry}
    (he : e ∈ o.shares) :
    (o.feed = .a → (removeRates o.feed o.shares s).account e.tenant =
        { s.account e.tenant with rateA := min 4294967295 ((s.account e.tenant).rateA - e.rate) }) ∧
      (o.feed = .b → (removeRates o.feed o.shares s).account e.tenant =
        { s.account e.tenant with rateB := min 4294967295 ((s.account e.tenant).rateB - e.rate) }) := by
  rw [account_removeRates_of_mem s o.feed hnodup he]
  refine ⟨fun hfeed => ?_, fun hfeed => ?_⟩ <;> rw [hfeed] <;> rfl

theorem totalIncomplete_iff (s : State) (n : Nat) :
    totalIncomplete s n = true ↔
      (s.account n).incomplete = true ∨
        ∃ k o, (k, o) ∈ s.ot.outlets ∧ o.binding ≠ .unbound ∧ o.baseline ≠ .live ∧ ∃ e ∈ o.shares, e.tenant = n := by
  have hnames : ∀ o : Outlet, (o.names n && decide (o.baseline ≠ .live)) = true ↔
      o.binding ≠ .unbound ∧ o.baseline ≠ .live ∧ ∃ e ∈ o.shares, e.tenant = n := fun o => by
    simp only [Outlet.names, Bool.and_eq_true, listed_iff, List.any_eq_true, beq_iff_eq, decide_eq_true_eq]
    exact ⟨fun ⟨⟨hb, he⟩, hl⟩ => ⟨hb, hl, he⟩, fun ⟨hb, hl, he⟩ => ⟨⟨hb, he⟩, hl⟩⟩
  simp only [totalIncomplete, Bool.or_eq_true, List.any_eq_true, hnames, Prod.exists]

section Total

variable (s : State) (x : IntervalTotal)

theorem account_handTotal (n : Nat) :
    (handTotal s x).account n = (s.setAccount x.tenant { s.account x.tenant with lastIncomplete := x.incomplete }).account n := by
  unfold handTotal
  dsimp only
  split_ifs
  · rw [writesNu_latchTenant]
    rfl
  · rfl

theorem nu_handTotal_of_complete (h : x.incomplete = false) : (handTotal s x).nu = s.nu := by
  rw [handTotal, if_neg (by simp [h])]
  rfl

theorem nu_handTotal_of_incomplete (h : x.incomplete = true) : (handTotal s x).nu = (latchTenant .incompleteData x.tenant s).nu := by
  rw [handTotal, if_pos h]
  exact latchTenant_nu_congr .incompleteData x.tenant rfl rfl

end Total

/-- Settles O30: each of the four operations by what it writes. -/
theorem sweepTotalsAndZeroing : Obligations.SweepTotalsAndZeroing := by
  refine ⟨fun c key s => ⟨fun hb hold => ?dropped, sweepOutlet_of_left⟩, fun c f s n => ⟨rfl, totalIncomplete_iff s n⟩,
    fun s x => ⟨?same, fun n hn => ?other, nu_handTotal_of_complete s x, nu_handTotal_of_incomplete s x⟩,
    fun s => ⟨rfl, account_zeroCollecting s⟩⟩
  case dropped =>
    have hwrites := writesAccounts_removeRates (s.outlet key).feed (s.outlet key).shares s
    rw [sweepOutlet_of_dropped hb hold]
    refine ⟨_, oneOutlet_setOutlet s key _, ?_, fun hnodup e he => account_removeRates_feeds s hnodup he,
      fun n hn => account_removeRates_of_notMem s _ hn⟩
    rw [hwrites]
    rfl
  case same => rw [account_handTotal, State.account_setAccount_same]
  case other => rw [account_handTotal, account_setAccount_other s _ hn]

/-! ### The end of a release -/

theorem esc_setEsc_of_ne (s : State) {k n : Nat} (v : Escalation) (h : n ≠ k) : (s.setEsc k v).esc n = s.esc n :=
  State.esc_setEsc_other s v h.symm

section Unshed

variable (a : OutletAddr) (s : State) {n : Nat}

/-- What the end of a release takes from a tenant's shed order. -/
def unshedOf (e : Escalation) : Escalation :=
  { e with
    shedOrder := e.shedOrder.filter fun x => decide (x ≠ a)
    cursor := if e.cursor = some a then none else e.cursor }

theorem unshed_cons (k : Nat) (ns : List Nat) : unshed a (k :: ns) s = unshed a ns (s.setEsc k (unshedOf a (s.esc k))) := rfl

theorem writesEs_unshed (ns : List Nat) : unshed a ns s = { s with es := (unshed a ns s).es } := by
  induction ns generalizing s with
  | nil => rfl
  | cons k ns ih => rw [unshed_cons, ih]; rfl

theorem esc_unshed_of_notMem {ns : List Nat} (h : n ∉ ns) : (unshed a ns s).esc n = s.esc n := by
  induction ns generalizing s with
  | nil => rfl
  | cons k ns ih =>
    obtain ⟨hk, hns⟩ := List.ne_and_not_mem_of_not_mem_cons h
    rw [unshed_cons, ih _ hns, esc_setEsc_of_ne s _ hk]

theorem unshedOf_unshedOf (e : Escalation) : unshedOf a (unshedOf a e) = unshedOf a e := by
  unfold unshedOf
  simp only [List.filter_filter, Bool.and_self]
  split_ifs <;> simp_all

/-- A tenant that the list names more than once loses the outlet once. -/
theorem esc_unshed_of_mem {ns : List Nat} (h : n ∈ ns) : (unshed a ns s).esc n = unshedOf a (s.esc n) := by
  induction ns generalizing s with
  | nil => cases h
  | cons k ns ih =>
    rw [unshed_cons]
    by_cases hk : n = k
    · subst hk
      by_cases hns : n ∈ ns
      · rw [ih _ hns, State.esc_setEsc_same, unshedOf_unshedOf]
      · rw [esc_unshed_of_notMem a _ hns, State.esc_setEsc_same]
    · rw [ih _ ((List.mem_cons.1 h).resolve_left hk), esc_setEsc_of_ne s _ hk]

end Unshed

section Finish

variable (key : Nat) (s : State) {n : Nat}

/-- An outlet record once its release has ended. -/
def released (o : Outlet) : Outlet :=
  { o with binding := .unbound, shares := [], unattributedRate := 0, shedMark := false, completionOwed := none }

/-- The state before the outlet record is written: the rates have left the sums, a marked outlet has left the shed orders. -/
def freed : State :=
  if (s.outlet key).shedMark then
    unshed (addrOfKey key) (s.outlet key).tenants (removeRates (s.outlet key).feed (s.outlet key).shares s)
  else removeRates (s.outlet key).feed (s.outlet key).shares s

theorem finishRelease_eq : finishRelease key s = (freed key s).setOutlet key (released (s.outlet key)) := rfl

theorem freed_writes : freed key s = { s with oae := { s.oae with accounts := (freed key s).oae.accounts }, es := (freed key s).es } := by
  have hrates := writesAccounts_removeRates (s.outlet key).feed (s.outlet key).shares s
  unfold WritesAccounts at hrates
  unfold freed
  split_ifs
  · rw [writesEs_unshed, hrates]
  · rw [hrates]

theorem finishRelease_writes :
    finishRelease key s =
      { s with
        ot := { s.ot with outlets := (finishRelease key s).ot.outlets }
        oae := { s.oae with accounts := (finishRelease key s).oae.accounts }
        es := (finishRelease key s).es } := by
  rw [finishRelease_eq, freed_writes]
  rfl

theorem outlet_finishRelease (j : Nat) : (finishRelease key s).outlet j = (s.setOutlet key (released (s.outlet key))).outlet j := by
  rw [finishRelease_eq, freed_writes]
  rfl

theorem account_finishRelease : (finishRelease key s).account n = (removeRates (s.outlet key).feed (s.outlet key).shares s).account n := by
  rw [finishRelease_eq, freed]
  split_ifs
  · rw [writesEs_unshed]
    rfl
  · rfl

theorem esc_finishRelease_of_marked (h : (s.outlet key).shedMark = true) :
    (finishRelease key s).esc n = (unshed (addrOfKey key) (s.outlet key).tenants s).esc n := by
  have hrates := writesAccounts_removeRates (s.outlet key).feed (s.outlet key).shares s
  have hesc : ∀ m, (removeRates (s.outlet key).feed (s.outlet key).shares s).esc m = s.esc m := fun m => by rw [hrates]; rfl
  have hfreed : (finishRelease key s).esc n =
      (unshed (addrOfKey key) (s.outlet key).tenants (removeRates (s.outlet key).feed (s.outlet key).shares s)).esc n := by
    rw [finishRelease_eq, freed, if_pos h]
    rfl
  rw [hfreed]
  by_cases hn : n ∈ (s.outlet key).tenants
  · rw [esc_unshed_of_mem _ _ hn, esc_unshed_of_mem _ _ hn, hesc]
  · rw [esc_unshed_of_notMem _ _ hn, esc_unshed_of_notMem _ _ hn, hesc]

theorem esc_finishRelease_of_notMem (h : n ∉ (s.outlet key).tenants) : (finishRelease key s).esc n = s.esc n := by
  by_cases hmark : (s.outlet key).shedMark = true
  · rw [esc_finishRelease_of_marked key s hmark, esc_unshed_of_notMem _ _ h]
  · have hrates := writesAccounts_removeRates (s.outlet key).feed (s.outlet key).shares s
    rw [finishRelease_eq, freed, if_neg hmark, hrates]
    rfl

end Finish

theorem completionRoom_iff (s : State) : s.completionRoom = true ↔ s.tp.completions.length < 32 := decide_eq_true_iff

theorem placeCompletion_of_room {s : State} (h : s.tp.completions.length < 32) (c : Completion) : placeCompletion c s = placed c s :=
  if_pos ((completionRoom_iff s).2 h)

theorem placeCompletion_of_full {s : State} (h : 32 ≤ s.tp.completions.length) (c : Completion) : placeCompletion c s = s :=
  if_neg (mt (completionRoom_iff s).1 (Nat.not_lt.2 h))

section EndRelease

variable {key : Nat} {s : State}

theorem endRelease_of_not_releasing (h : (s.outlet key).binding ≠ .releasing) : endRelease key s = s := if_neg h

theorem endRelease_of_none (h : (s.outlet key).binding = .releasing) (howed : (s.outlet key).completionOwed = none) :
    endRelease key s = finishRelease key s := by
  rw [endRelease]
  rw [if_pos h, howed]

theorem endRelease_of_full {tag : Byte} (h : (s.outlet key).binding = .releasing) (howed : (s.outlet key).completionOwed = some tag)
    (hfull : 32 ≤ s.tp.completions.length) : endRelease key s = s := by
  rw [endRelease]
  rw [if_pos h, howed]
  exact if_neg (mt (completionRoom_iff s).1 (Nat.not_lt.2 hfull))

theorem endRelease_of_room {tag : Byte} (h : (s.outlet key).binding = .releasing) (howed : (s.outlet key).completionOwed = some tag)
    (hroom : s.tp.completions.length < 32) :
    endRelease key s = finishRelease key (placed (releaseCompletion key (s.outlet key) tag) s) := by
  rw [endRelease]
  rw [if_pos h, howed, ← placeCompletion_of_room hroom]
  exact if_pos ((completionRoom_iff s).2 hroom)

end EndRelease

/-- The end of a release, from a state that differs from `s` in TP alone. -/
theorem finishRelease_spec {key : Nat} {s u : State} (hu : u = { s with tp := u.tp }) :
    (finishRelease key u).outlet key =
        { s.outlet key with binding := .unbound, shares := [], unattributedRate := 0, shedMark := false, completionOwed := none } ∧
      (∀ j, j ≠ key → (finishRelease key u).outlet j = s.outlet j) ∧
      finishRelease key u =
        { s with
          ot := { s.ot with outlets := (finishRelease key u).ot.outlets }
          oae := { s.oae with accounts := (finishRelease key u).oae.accounts }
          es := (finishRelease key u).es, tp := u.tp } ∧
      (((s.outlet key).shares.map ShareEntry.tenant).Nodup → ∀ e ∈ (s.outlet key).shares,
        ((s.outlet key).feed = .a → (finishRelease key u).account e.tenant =
          { s.account e.tenant with rateA := min 4294967295 ((s.account e.tenant).rateA - e.rate) }) ∧
        ((s.outlet key).feed = .b → (finishRelease key u).account e.tenant =
          { s.account e.tenant with rateB := min 4294967295 ((s.account e.tenant).rateB - e.rate) })) ∧
      (∀ n, (∀ e ∈ (s.outlet key).shares, e.tenant ≠ n) →
        (finishRelease key u).account n = s.account n ∧ (finishRelease key u).esc n = s.esc n) ∧
      ((s.outlet key).shedMark = true → ∀ e ∈ (s.outlet key).shares,
        ((finishRelease key u).esc e.tenant).shedOrder =
          (s.esc e.tenant).shedOrder.filter fun x => decide (x ≠ { head := key / 48, outlet := key % 48 })) := by
  have houtlet : ∀ j, u.outlet j = s.outlet j := fun j => by rw [hu]; rfl
  have haccount : ∀ n, u.account n = s.account n := fun n => by rw [hu]; rfl
  have hesc : ∀ n, u.esc n = s.esc n := fun n => by rw [hu]; rfl
  refine ⟨?same, fun j hj => ?others, ?frame, fun hnodup e he => ?rates, fun n hn => ⟨?account, ?esc⟩, fun hmark e he => ?shed⟩
  case same =>
    rw [outlet_finishRelease, State.outlet_setOutlet_same, houtlet]
    rfl
  case others => rw [outlet_finishRelease, State.outlet_setOutlet_other u _ hj.symm, houtlet]
  case frame =>
    have hwrites := finishRelease_writes key u
    rw [hu] at hwrites ⊢
    exact hwrites
  case rates =>
    have hrates := account_removeRates_feeds u (o := u.outlet key) (by rw [houtlet]; exact hnodup) (by rw [houtlet]; exact he)
    rw [account_finishRelease]
    rw [haccount, houtlet] at hrates
    rw [houtlet]
    exact hrates
  case account =>
    rw [account_finishRelease, account_removeRates_of_notMem u _ (by rw [houtlet]; exact hn), haccount]
  case esc =>
    have hnot : n ∉ (u.outlet key).tenants := by
      rw [houtlet]
      intro hin
      obtain ⟨e, he, htenant⟩ := List.mem_map.1 hin
      exact hn e he htenant
    rw [esc_finishRelease_of_notMem key u hnot, hesc]
  case shed =>
    have hin : e.tenant ∈ (u.outlet key).tenants := by
      rw [houtlet]
      exact List.mem_map_of_mem he
    rw [esc_finishRelease_of_marked key u (by rw [houtlet]; exact hmark), esc_unshed_of_mem _ u hin, hesc]
    rfl

/-- Settles O31: by the completion owed and the room for it. -/
theorem releaseEndsAtTheClose : Obligations.ReleaseEndsAtTheClose := by
  intro key s
  refine ⟨endRelease_of_not_releasing, fun tag h howed hfull => endRelease_of_full h howed hfull, fun h hroom => ?ends⟩
  cases howed : (s.outlet key).completionOwed with
  | none =>
    rw [endRelease_of_none h howed]
    obtain ⟨hsame, hothers, hframe, hrates, hkept, hshed⟩ := finishRelease_spec (key := key) (s := s) (u := s) rfl
    have htp : (finishRelease key s).tp = s.tp := by rw [hframe]
    refine ⟨hsame, hothers, ?_, fun _ => htp, nofun, hrates, hkept, hshed⟩
    rw [htp]
    exact hframe
  | some tag =>
    have hroom : s.tp.completions.length < 32 := hroom.resolve_left (by rw [howed]; nofun)
    rw [endRelease_of_room h howed hroom]
    obtain ⟨hsame, hothers, hframe, hrates, hkept, hshed⟩ :=
      finishRelease_spec (key := key) (s := s) (u := placed (releaseCompletion key (s.outlet key) tag) s) rfl
    have htp : (finishRelease key (placed (releaseCompletion key (s.outlet key) tag) s)).tp =
        (placed (releaseCompletion key (s.outlet key) tag) s).tp := by rw [hframe]
    refine ⟨hsame, hothers, ?_, nofun, fun tag' htag => ?_, hrates, hkept, hshed⟩
    · rw [htp]
      exact hframe
    · cases htag
      exact htp

/-! ### The close -/

/-- The members of a canonical table are what is read from it, where that is not the record of an unlisted key. -/
theorem mem_table_iff {α : Type} [DecidableEq α] {d : α} {t : Table α} (h : tableWf d t) (k : Nat) (v : α) :
    (k, v) ∈ t ↔ tableGet d t k = v ∧ v ≠ d := by
  obtain ⟨hsorted, hlisted⟩ := h
  induction t with
  | nil => simpa [tableGet] using fun h : d = v => h.symm
  | cons p t ih =>
    obtain ⟨k', v'⟩ := p
    rw [List.map_cons, List.pairwise_cons] at hsorted
    obtain ⟨hfirst, hsorted⟩ := hsorted
    have hrest := ih hsorted fun p hp => hlisted p (List.mem_cons_of_mem _ hp)
    rw [List.mem_cons, tableGet]
    by_cases hk : k' = k
    · subst hk
      have hno : (k', v) ∉ t := fun hin => lt_irrefl k' (hfirst k' (List.mem_map.2 ⟨_, hin, rfl⟩))
      have hv' : v' ≠ d := hlisted (k', v') List.mem_cons_self
      rw [if_pos rfl]
      refine ⟨fun hin => ?_, fun ⟨heq, _⟩ => .inl (by rw [heq])⟩
      obtain ⟨-, rfl⟩ := Prod.mk.injEq .. ▸ hin.resolve_right hno
      exact ⟨rfl, hv'⟩
    · have hne : (k, v) ≠ (k', v') := fun heq => hk (congrArg Prod.fst heq).symm
      rw [if_neg hk, ← hrest]
      exact or_iff_right hne

/-- A key that is not listed reads as the record of an unlisted one. -/
theorem tableGet_of_notMem {α : Type} {d : α} {t : Table α} {k : Nat} (h : k ∉ t.map Prod.fst) : tableGet d t k = d := by
  induction t with
  | nil => rfl
  | cons p t ih =>
    obtain ⟨hp, ht⟩ := List.ne_and_not_mem_of_not_mem_cons h
    obtain ⟨k', v'⟩ := p
    rw [tableGet, if_neg (fun heq => hp heq.symm), ih ht]

theorem tableErase_of_notMem {α : Type} {t : Table α} {k : Nat} (h : k ∉ t.map Prod.fst) : tableErase k t = t := by
  refine List.filter_eq_self.2 fun p hp => ?_
  rw [bne_iff_ne]
  rintro rfl
  exact h (List.mem_map_of_mem hp)

section Unlisted

variable {key : Nat} {s : State}

theorem outlet_of_notMem (h : key ∉ s.ot.outlets.map Prod.fst) : s.outlet key = Outlet.initial := tableGet_of_notMem h

theorem setOutlet_initial_of_notMem (h : key ∉ s.ot.outlets.map Prod.fst) : s.setOutlet key Outlet.initial = s := by
  rw [State.setOutlet, State.onOt, tableSet, if_pos rfl, tableErase_of_notMem h]

/-- The sweep leaves an outlet that is not listed. -/
theorem sweepOutlet_of_notMem (c : Period) (h : key ∉ s.ot.outlets.map Prod.fst) : sweepOutlet c key s = s := by
  rw [sweepOutlet, outlet_of_notMem h]
  split_ifs
  · exact setOutlet_initial_of_notMem h
  · rfl

end Unlisted

theorem mem_liveTenants_iff {s : State} (h : tableWf Tenant.initial s.tl.tenants) (n : Nat) :
    n ∈ s.liveTenants ↔ (s.tenant n).state ≠ .vacant := by
  simp only [State.liveTenants, List.mem_map, List.mem_filter, Prod.exists, decide_eq_true_eq, exists_and_right, exists_eq_right,
    mem_table_iff h]
  refine ⟨?_, fun hlive => ⟨s.tenant n, ⟨rfl, fun heq => hlive ?_⟩, hlive⟩⟩
  · rintro ⟨r, ⟨rfl, -⟩, hlive⟩
    exact hlive
  · rw [heq]
    rfl

/-- Settles O29: a close is `runClose`, and the folds over the outlets and the tenants go through their tables. -/
theorem closeRunsItsStepsInOrder : Obligations.CloseRunsItsStepsInOrder := by
  intro s
  refine ⟨fun c f rest hcloses => ?runs, fun hnone => congrArg Host.Outcome.next (closePeriod_of_not_judged hnone), fun c => ?sweep, ?releases,
    fun hwf => ⟨hwf.1, fun c key hkey => ?unlisted⟩, fun hwf => ⟨?sorted, mem_liveTenants_iff hwf⟩⟩
  case runs =>
    obtain ⟨hpending, hct, hline⟩ := frame_of_keeps (s := s) (t := closePeriod s) fun h => h.closePeriod
    exact ⟨_, _, closePeriod s, rfl, rfl, closePeriod_of_judged hcloses, rfl, hpending, hct, sameLine_of_line_eq hline⟩
  case sweep => rw [sweep, List.foldl_map]
  case releases => rw [endReleases, List.foldl_map]
  case unlisted =>
    refine ⟨outlet_of_notMem hkey, sweepOutlet_of_notMem c hkey, endRelease_of_not_releasing ?_⟩
    rw [outlet_of_notMem hkey]
    nofun
  case sorted => exact hwf.1.sublist (List.filter_sublist.map _)

end Sys2Proof.Stated
end

section

/-! ### Demand, allowance, evaluation -/

namespace Sys2Proof.Stated

open Sys2Proof.Machine

/-! ### The demand of a window -/

section Demand

variable {w : WindowFields} (il : Nat) (c : Period) (used : List RingEntry)

theorem computeDemand_of_pooled (h : w.cls = .pooled) :
    computeDemand w il c used =
      { cls := .pooled, period := c, value2 := 0
        value1 := min 16777215 (((used.map RingEntry.energyA).sum + (used.map RingEntry.energyB).sum) / (w.buckets * w.bucketLength * il)) } := by
  rw [computeDemand, h]
  rfl

theorem computeDemand_of_perFeed (h : w.cls = .perFeed) :
    computeDemand w il c used =
      { cls := .perFeed, period := c
        value1 := min 16777215 ((used.map RingEntry.energyA).sum / (w.buckets * w.bucketLength * il))
        value2 := min 16777215 ((used.map RingEntry.energyB).sum / (w.buckets * w.bucketLength * il)) } := by
  rw [computeDemand, h]
  rfl

theorem peakCandidate_computeDemand :
    peakCandidate (computeDemand w il c used) =
      if w.cls = .pooled then (computeDemand w il c used).value1
      else min 16777215 ((computeDemand w il c used).value1 + (computeDemand w il c used).value2) := by
  cases h : w.cls with
  | pooled => rw [computeDemand_of_pooled il c used h]; rfl
  | perFeed => rw [computeDemand_of_perFeed il c used h]; rfl

theorem period_computeDemand : (computeDemand w il c used).period = c := by
  cases h : w.cls with
  | pooled => rw [computeDemand_of_pooled il c used h]
  | perFeed => rw [computeDemand_of_perFeed il c used h]

end Demand

/-- Settles O33: by the class of the contract. -/
theorem demandIsTheMeanOfTheWindow : Obligations.DemandIsTheMeanOfTheWindow := by
  rintro w il c used d a b seconds rfl rfl rfl rfl
  rw [← peakCandidate_computeDemand]
  refine ⟨computeDemand_of_pooled il c used, computeDemand_of_perFeed il c used, ?_, fun p => ?_⟩ <;>
    rw [updatePeak, period_computeDemand]

/-! ### The failover allowance -/

/-- Settles O36: the rows of the allowance in their order. -/
theorem failoverAllowanceFollowsTheFeeds : Obligations.FailoverAllowanceFollowsTheFeeds := by
  rintro w r a b x rfl
  have hperFeed : w.cls = .perFeed → allowanceStep w r a b =
      perFeedAllowance (w.buckets * w.bucketLength) r.coveredFeed r.allowanceTail a.down b.down := fun h => by
    rw [allowanceStep, h]
  refine ⟨fun h => ?pooled, fun h ha hb => ?coversA, fun h ha hb => ?coversB, fun h ha hb => ?both, fun f h ha hb htail hcovered => ?tail,
    fun h ha hb htail => ?none⟩
  case pooled => rw [allowanceStep, h]
  all_goals rw [hperFeed h]
  case coversA => simp [perFeedAllowance, FeedState.down, ha, hb]
  case coversB => simp [perFeedAllowance, FeedState.down, ha, hb]
  case both => simp [perFeedAllowance, FeedState.down, ha, hb]
  case tail => simp [perFeedAllowance, FeedState.down, ha, hb, htail, hcovered]
  case none => simp [perFeedAllowance, FeedState.down, ha, hb, htail]

/-! ### The classification of an evaluation -/

/-- The greatest value of a list, from a starting value on. -/
theorem foldl_max_spec (js : List Judged) (m : Nat) :
    m ≤ js.foldl (fun m j => max m j.value) m ∧ (∀ j ∈ js, j.value ≤ js.foldl (fun m j => max m j.value) m) ∧
      (js.foldl (fun m j => max m j.value) m = m ∨ ∃ j ∈ js, js.foldl (fun m j => max m j.value) m = j.value) := by
  induction js generalizing m with
  | nil => exact ⟨le_rfl, nofun, .inl rfl⟩
  | cons i js ih =>
    obtain ⟨hstart, hall, hsome⟩ := ih (max m i.value)
    rw [List.foldl_cons]
    refine ⟨(le_max_left _ _).trans hstart, fun j hj => ?_, ?_⟩
    · rcases List.mem_cons.1 hj with rfl | hj
      · exact (le_max_right _ _).trans hstart
      · exact hall j hj
    · rcases hsome with heq | ⟨j, hj, heq⟩
      · rcases max_choice m i.value with hm | hi
        · exact .inl (heq.trans hm)
        · exact .inr ⟨i, List.mem_cons_self, heq.trans hi⟩
      · exact .inr ⟨j, List.mem_cons_of_mem _ hj, heq⟩

theorem foldl_union_spec (js : List Judged) (f : FeedSet) :
    ((js.foldl (fun f j => f.union (scopeFeeds j.scope)) f).a = true ↔ f.a = true ∨ ∃ j ∈ js, (scopeFeeds j.scope).a = true) ∧
      ((js.foldl (fun f j => f.union (scopeFeeds j.scope)) f).b = true ↔ f.b = true ∨ ∃ j ∈ js, (scopeFeeds j.scope).b = true) := by
  induction js generalizing f with
  | nil => simp
  | cons i js ih =>
    obtain ⟨ha, hb⟩ := ih (f.union (scopeFeeds i.scope))
    rw [List.foldl_cons, ha, hb]
    simp only [FeedSet.union, Bool.or_eq_true, List.exists_mem_cons_iff, or_assoc]
    exact ⟨trivial, trivial⟩

theorem scopeFeeds_a_iff (x : Scope) : (scopeFeeds x).a = true ↔ x ≠ .feedB := by cases x <;> simp [scopeFeeds]

theorem scopeFeeds_b_iff (x : Scope) : (scopeFeeds x).b = true ↔ x ≠ .feedA := by cases x <;> simp [scopeFeeds]

theorem combinedBand_eq_above_iff (js : List Judged) : combinedBand js = .above ↔ ∃ j ∈ js, j.bound < j.value := by
  have hany : (js.any fun j => decide (j.bound < j.value)) = true ↔ ∃ j ∈ js, j.bound < j.value := by simp
  rw [← hany, combinedBand]
  split_ifs with habove hexit
  · exact iff_of_true rfl habove
  · exact iff_of_false nofun habove
  · exact iff_of_false nofun habove

theorem combinedBand_eq_atExit_iff (js : List Judged) :
    combinedBand js = .atExit ↔ (∀ j ∈ js, j.value ≤ j.bound) ∧ ∀ j ∈ js, j.value ≤ j.exit := by
  have hany : ¬ (js.any fun j => decide (j.bound < j.value)) = true ↔ ∀ j ∈ js, j.value ≤ j.bound := by simp
  have hall : (js.all fun j => decide (j.value ≤ j.exit)) = true ↔ ∀ j ∈ js, j.value ≤ j.exit := by simp
  rw [← hany, ← hall, combinedBand]
  split_ifs with habove hexit
  · exact iff_of_false nofun fun h => h.1 habove
  · exact iff_of_true rfl ⟨habove, hexit⟩
  · exact iff_of_false nofun fun h => hexit h.2

theorem exists_over_iff (js : List Judged) (p : Judged → Prop) :
    (∃ j ∈ js.filter fun j => decide (j.bound < j.value), p j) ↔ ∃ j ∈ js, j.bound < j.value ∧ p j := by
  simp only [List.mem_filter, decide_eq_true_eq, and_assoc]

theorem classify_spec {js : List Judged} (h : js ≠ []) :
    ∃ ev, classify js = some ev ∧ (ev.band = .above ↔ ∃ j ∈ js, j.bound < j.value) ∧
      (ev.band = .atExit ↔ (∀ j ∈ js, j.value ≤ j.bound) ∧ ∀ j ∈ js, j.value ≤ j.exit) ∧
      (∃ j ∈ js, ev.peak = j.value) ∧ (∀ j ∈ js, j.value ≤ ev.peak) ∧
      (ev.feedsOver.a = true ↔ ∃ j ∈ js, j.bound < j.value ∧ j.scope ≠ .feedB) ∧
      (ev.feedsOver.b = true ↔ ∃ j ∈ js, j.bound < j.value ∧ j.scope ≠ .feedA) := by
  obtain ⟨-, hpeak, hsome⟩ := foldl_max_spec js 0
  obtain ⟨ha, hb⟩ := foldl_union_spec (js.filter fun j => decide (j.bound < j.value)) { a := false, b := false }
  simp only [scopeFeeds_a_iff, scopeFeeds_b_iff, Bool.false_eq_true, false_or, exists_over_iff] at ha hb
  refine ⟨_, if_neg h, combinedBand_eq_above_iff js, combinedBand_eq_atExit_iff js, ?_, hpeak, ha, hb⟩
  rcases hsome with hzero | hsome
  · obtain ⟨j, hj⟩ := List.exists_mem_of_ne_nil js h
    exact ⟨j, hj, le_antisymm (hzero.le.trans (Nat.zero_le _)) (hpeak j hj)⟩
  · exact hsome

/-! ### An evaluation handed on -/

theorem appendBreach_eq (log : List ClosedBreach) (e : ClosedBreach) : appendBreach log e = List.drop (log.length - 3) (log ++ [e]) := by
  have hdrop : log.length + 1 - Config.breachLogDepth = log.length - 3 := Nat.add_sub_add_right log.length 1 3
  rw [appendBreach, hdrop, List.drop_append_of_le_length (Nat.sub_le _ _)]

/-- The log after a machine's step, as the statements write it. -/
theorem logBreach_eq (kind : MachineKind) (c : Period) (b : Option OpenBreach) (log : List ClosedBreach) :
    logBreach kind (fun _ => c) clearOutcome b log =
      match b with
      | none => log
      | some b =>
        List.drop (log.length - 3)
          (log ++
            [{ kind := kind, feeds := b.feeds, start := b.start, duration := (c - b.start).toNat, peak := b.peak
               outcome := if b.shed then .shed else .cleared }]) := by
  cases b with
  | none => rfl
  | some b => exact appendBreach_eq log _

section Evaluate

variable (k : LimitFields) (n : Nat) (kind : MachineKind) (c : Period) (complete : Bool) (ev : Evaluation) (s : State)

/-- One evaluation of a tenant's machine. -/
def machineStep : MachineStep := evalMachine (graceOf k kind) k.easeCount c complete ev ((s.tenant n).machine kind)

theorem machineStep_eq :
    machineStep k n kind c complete ev s =
      evalMachine (if kind = .burst then k.burstGrace else k.demandGrace) k.easeCount c complete ev
        (if kind = .burst then (s.tenant n).burst else (s.tenant n).demand) := by
  cases kind <;> rfl

/-- The tenant record after an evaluation. -/
def evaluated (x : MachineStep) (r : Tenant) : Tenant :=
  { r.setMachine kind x.machine with breachLog := logBreach kind (fun _ => c) clearOutcome x.closed r.breachLog }

theorem evaluated_eq (x : MachineStep) (r : Tenant) :
    evaluated kind c x r =
      { r with
        breachLog := logBreach kind (fun _ => c) clearOutcome x.closed r.breachLog
        burst := if kind = .burst then x.machine else r.burst
        demand := if kind = .burst then r.demand else x.machine } := by
  cases kind <;> rfl

theorem evaluate_eq :
    evaluate k n kind c complete (some ev) s =
      (latchMove n kind (machineStep k n kind c complete ev s).move
          (s.setTenant n (evaluated kind c (machineStep k n kind c complete ev s) (s.tenant n))),
        match (machineStep k n kind c complete ev s).move with | none => [] | some m => [{ machine := kind, move := m }]) := rfl

theorem breachCause_eq : breachCause kind = if kind = .burst then .burstBreach else .demandBreach := by cases kind <;> rfl

end Evaluate

/-- Settles O38: the classification by its parts; the machine's step written to the record, its cause latched, its move handed on. -/
theorem evaluationIsClassifiedAndHandedOn : Obligations.EvaluationIsClassifiedAndHandedOn := by
  refine ⟨⟨rfl, fun js h => classify_spec h⟩, fun k n kind c complete s => ⟨rfl, fun ev x r hx hlog hr => ?_⟩⟩
  rw [← machineStep_eq] at hx
  have hrecord : evaluated kind c (machineStep k n kind c complete ev s) (s.tenant n) = r := by
    rw [hr, hlog, evaluated_eq, ← hx]
    congr 1
    exact logBreach_eq kind c x.closed _
  rw [evaluate_eq, hrecord, ← hx, ← breachCause_eq]
  cases x.move with
  | none => rfl
  | some m => cases m <;> rfl

end Sys2Proof.Stated
end

section

/-! ### The settle reaches its tenant alone, and keeps the lifetime energies and the contract -/

namespace Sys2Proof.Stated

open Sys2Proof.Machine

/-! ### What the steps of a settle leave -/

/-- The record, the escalation and the cause set of every other tenant are the same. -/
structure OthersKept (n : Nat) (s t : State) : Prop where
  tenant : ∀ m, m ≠ n → t.tenant m = s.tenant m
  esc : ∀ m, m ≠ n → t.esc m = s.esc m
  causes : ∀ m, m ≠ n → t.causes m = s.causes m

/-- What steps 3 to 7 of a settle keep of a tenant record, and that none of them brings a CLOSE-TENANT into the slot. -/
structure RecordKept (r r' : Tenant) : Prop where
  state : r'.state = r.state
  contract : r'.contract = r.contract
  pendingLimits : r'.pendingLimits = r.pendingLimits
  lifetimeA : r'.lifetimeA = r.lifetimeA
  lifetimeB : r'.lifetimeB = r.lifetimeB
  close : ∀ tag, r'.slot = .closeTenant tag → r.slot = .closeTenant tag

/-- What steps 3 to 7 of the settle of a tenant keep. -/
structure SettleStep (n : Nat) (s t : State) : Prop where
  others : OthersKept n s t
  record : RecordKept (s.tenant n) (t.tenant n)
  count : t.tl.count = s.tl.count

section Others

variable {n : Nat} {s t u : State}

theorem OthersKept.refl (n : Nat) (s : State) : OthersKept n s s := ⟨fun _ _ => rfl, fun _ _ => rfl, fun _ _ => rfl⟩

theorem OthersKept.trans (h : OthersKept n s t) (g : OthersKept n t u) : OthersKept n s u where
  tenant m hm := (g.tenant m hm).trans (h.tenant m hm)
  esc m hm := (g.esc m hm).trans (h.esc m hm)
  causes m hm := (g.causes m hm).trans (h.causes m hm)

theorem othersKept_setTenant (n : Nat) (r : Tenant) (s : State) : OthersKept n s (s.setTenant n r) :=
  ⟨fun _ hm => State.tenant_setTenant_other s r hm.symm, fun _ _ => rfl, fun _ _ => rfl⟩

theorem othersKept_setEsc (n : Nat) (e : Escalation) (s : State) : OthersKept n s (s.setEsc n e) :=
  ⟨fun _ _ => rfl, fun _ hm => esc_setEsc_of_ne s e hm, fun _ _ => rfl⟩

/-- A write of the cause set of the tenant, whatever becomes of the Notice Queue. -/
theorem othersKept_setCauses (c : CauseSet) (htl : t.tl = s.tl) (hes : t.es = s.es)
    (hnu : t.nu.tenants = (s.setCauses n c).nu.tenants) : OthersKept n s t where
  tenant m _ := congrArg (fun l : Ledger => tableGet Tenant.initial l.tenants m) htl
  esc m _ := congrArg (fun q : Sequencer => tableGet Escalation.initial q.tenants m) hes
  causes m hm := (congrArg (fun q => tableGet CauseSet.initial q m) hnu).trans (causes_setCauses_other s c hm)

theorem othersKept_latchTenant (c : TenantCause) (n : Nat) (s : State) : OthersKept n s (latchTenant c n s) := by
  unfold latchTenant
  split_ifs
  · exact .refl n s
  · exact othersKept_setCauses _ rfl rfl rfl

theorem othersKept_setTenantMask (n : Nat) (mask : BitVec 16) (s : State) : OthersKept n s (setTenantMask n mask s) :=
  othersKept_setCauses _ rfl rfl rfl

theorem othersKept_vacate (n : Nat) (s : State) : OthersKept n s (vacate n s) := by
  have hrecord := othersKept_setTenant n Tenant.initial s
  have hsource := hrecord.trans (othersKept_setCauses (t := vacateSource n (s.setTenant n Tenant.initial)) CauseSet.initial rfl rfl rfl)
  have hesc := hsource.trans (othersKept_setEsc n { s.esc n with failed := [] } _)
  exact ⟨hesc.tenant, hesc.esc, hesc.causes⟩

end Others

theorem RecordKept.refl (r : Tenant) : RecordKept r r := ⟨rfl, rfl, rfl, rfl, rfl, fun _ h => h⟩

theorem RecordKept.trans {r r' r'' : Tenant} (h : RecordKept r r') (g : RecordKept r' r'') : RecordKept r r'' where
  state := g.state.trans h.state
  contract := g.contract.trans h.contract
  pendingLimits := g.pendingLimits.trans h.pendingLimits
  lifetimeA := g.lifetimeA.trans h.lifetimeA
  lifetimeB := g.lifetimeB.trans h.lifetimeB
  close tag hr := h.close tag (g.close tag hr)

namespace SettleStep

variable {n : Nat} {s u : State}

theorem refl (n : Nat) (s : State) : SettleStep n s s := ⟨.refl n s, .refl _, rfl⟩

theorem trans {t : State} (h : SettleStep n s t) (g : SettleStep n t u) : SettleStep n s u :=
  ⟨h.others.trans g.others, h.record.trans g.record, g.count.trans h.count⟩

/-! ### The updates -/

theorem setTenant (h : SettleStep n s u) (r : Tenant) (hr : RecordKept (u.tenant n) r := by exact ⟨rfl, rfl, rfl, rfl, rfl, fun _ h => h⟩) :
    SettleStep n s (u.setTenant n r) :=
  h.trans ⟨othersKept_setTenant n r u, by rwa [State.tenant_setTenant_same], rfl⟩

theorem setEsc (h : SettleStep n s u) (e : Escalation) : SettleStep n s (u.setEsc n e) :=
  h.trans ⟨othersKept_setEsc n e u, .refl _, rfl⟩

theorem latchTenant (h : SettleStep n s u) (c : TenantCause) : SettleStep n s (latchTenant c n u) := by
  have hcount : (Sys2Proof.Machine.latchTenant c n u).tl.count = u.tl.count := by rw [writesNu_latchTenant c n u]
  exact h.trans ⟨othersKept_latchTenant c n u, by rw [latchTenant_tenant]; exact .refl _, hcount⟩

/-- An update that leaves TL, ES and the tenants' cause sets is a step of the settle. -/
theorem of_tables_eq (h : SettleStep n s u) {t : State} (htl : t.tl = u.tl) (hes : t.es = u.es) (hnu : t.nu.tenants = u.nu.tenants) :
    SettleStep n s t := by
  have htenant : ∀ m, t.tenant m = u.tenant m := fun m => by unfold State.tenant; rw [htl]
  have hesc : ∀ m, t.esc m = u.esc m := fun m => by unfold State.esc; rw [hes]
  have hcauses : ∀ m, t.causes m = u.causes m := fun m => by unfold State.causes; rw [hnu]
  exact h.trans ⟨⟨fun m _ => htenant m, fun m _ => hesc m, fun m _ => hcauses m⟩, by rw [htenant]; exact .refl _, by rw [htl]⟩

theorem onTenant (h : SettleStep n s u) (f : Tenant → Tenant)
    (hf : RecordKept (u.tenant n) (f (u.tenant n)) := by exact ⟨rfl, rfl, rfl, rfl, rfl, fun _ h => h⟩) : SettleStep n s (onTenant n f u) :=
  h.setTenant _ hf

theorem placeCompletion (h : SettleStep n s u) (c : Completion) : SettleStep n s (placeCompletion c u) := by
  unfold Sys2Proof.Machine.placeCompletion
  split_ifs
  · exact h.of_tables_eq rfl rfl rfl
  · exact h

/-! ### Escalation -/

theorem leaveShedding (h : SettleStep n s u) : SettleStep n s (leaveShedding n u) :=
  SettleStep.setEsc (h.of_tables_eq (t := withdrawRequest n u) rfl rfl rfl) _

theorem settleShedding (h : SettleStep n s u) (c : TenantCause) : SettleStep n s (settleShedding c n u) :=
  ((h.setEsc _).leaveShedding).latchTenant c

theorem shedMark (h : SettleStep n s u) (key : Nat) : SettleStep n s (shedMark n key u) :=
  SettleStep.setTenant ((h.of_tables_eq (t := u.setOutlet key _) rfl rfl rfl).setEsc _) _

theorem placeOff (h : SettleStep n s u) (key : Nat) : SettleStep n s (placeOff n key u) := by
  unfold Sys2Proof.Machine.placeOff
  dsimp only
  split
  · exact h
  · exact (h.of_tables_eq (t := addRequest _ u) rfl rfl rfl).shedMark key

theorem chooseCandidate (h : SettleStep n s u) (handed : List HandedFeed) : SettleStep n s (chooseCandidate n handed u) := by
  unfold Sys2Proof.Machine.chooseCandidate
  split_ifs
  · exact h
  · split
    · exact h.placeOff _
    · exact h.settleShedding _

theorem failOutlet (h : SettleStep n s u) (a : OutletAddr) : SettleStep n s (failOutlet n a u) := ((h.setEsc _).latchTenant _).setEsc _

theorem judgeOff (h : SettleStep n s u) (handed : List HandedFeed) (w : Awaiting) : SettleStep n s (judgeOff n handed w u) := by
  unfold Sys2Proof.Machine.judgeOff
  dsimp only
  split_ifs
  · exact (h.setEsc _).chooseCandidate handed
  · exact h.setEsc _
  · exact (h.failOutlet _).chooseCandidate handed

theorem sheddingStep (h : SettleStep n s u) (handed : List HandedFeed) : SettleStep n s (sheddingStep n handed u) := by
  unfold Sys2Proof.Machine.sheddingStep
  split_ifs
  · exact h.settleShedding _
  · split
    · exact h.judgeOff handed _
    · exact h.chooseCandidate handed

theorem enterShedding (h : SettleStep n s u) : SettleStep n s (enterShedding n u) := (h.setEsc _).latchTenant _

theorem armedStep (h : SettleStep n s u) (handed : List HandedFeed) : SettleStep n s (armedStep n handed u) := by
  unfold Sys2Proof.Machine.armedStep
  split_ifs
  · exact h.setEsc _
  · split
    · split_ifs
      · exact h.enterShedding.sheddingStep handed
      · exact h.setEsc _
    · exact h

theorem holdStep (h : SettleStep n s u) (handed : List HandedFeed) : SettleStep n s (holdStep n handed u) := by
  unfold Sys2Proof.Machine.holdStep
  split_ifs
  · exact h.enterShedding.sheddingStep handed
  · exact h.setEsc _
  · exact h

theorem restoreEnd (h : SettleStep n s u) : SettleStep n s (restoreEnd n u) := by
  unfold Sys2Proof.Machine.restoreEnd
  split
  · dsimp only
    split_ifs
    · exact ((h.placeCompletion _).setEsc _).setTenant _ ⟨rfl, rfl, rfl, rfl, rfl, nofun⟩
    · exact h.setEsc _
  · exact h

theorem unmark (h : SettleStep n s u) (a : OutletAddr) (tally : Tallies → Tallies) : SettleStep n s (unmark n a tally u) :=
  SettleStep.setEsc (h.of_tables_eq (t := u.setOutlet a.key _) rfl rfl rfl) _

theorem placeOn (h : SettleStep n s u) (a : OutletAddr) : SettleStep n s (placeOn n a u) := by
  unfold Sys2Proof.Machine.placeOn
  dsimp only
  split
  · exact h
  · exact SettleStep.setEsc (h.of_tables_eq (t := addRequest _ u) rfl rfl rfl) _

theorem goOn (l : List OutletAddr) : ∀ {u : State}, SettleStep n s u → SettleStep n s (goOn n l u) := by
  induction l with
  | nil => exact fun h => h.restoreEnd
  | cons a l ih =>
    intro u h
    unfold Sys2Proof.Machine.goOn
    dsimp only
    split_ifs
    · exact ih ((h.setEsc _).unmark a _)
    · exact (h.setEsc _).placeOn a

theorem restoringStep (h : SettleStep n s u) : SettleStep n s (restoringStep n u) := by
  unfold Sys2Proof.Machine.restoringStep judgeOn
  split
  · dsimp only
    split_ifs
    · exact (h.setEsc _).goOn _
    · exact (h.unmark _ _).goOn _
    · exact h.setEsc _
    · exact (h.unmark _ _).goOn _
  · exact h.goOn _

theorem takeTransition (h : SettleStep n s u) (k : LimitFields) (x : Transition) : SettleStep n s (takeTransition k n u x) := by
  unfold Sys2Proof.Machine.takeTransition
  split_ifs
  · split
    · exact h
    · exact h.setEsc _
    · exact h.enterShedding
  · exact h

theorem stageStep (h : SettleStep n s u) (handed : List HandedFeed) : SettleStep n s (stageStep n handed u) := by
  unfold Sys2Proof.Machine.stageStep
  split
  · exact h
  · exact h.armedStep handed
  · exact h.sheddingStep handed
  · exact h.holdStep handed
  · exact h.restoringStep

theorem esActive (h : SettleStep n s u) (k : LimitFields) (xs : List Transition) (handed : List HandedFeed) :
    SettleStep n s (esActive k n xs handed u) := by
  have hfold : SettleStep n s (xs.foldl (Sys2Proof.Machine.takeTransition k n) u) :=
    h.trans (foldl_related (.refl n) .trans (fun u x => (SettleStep.refl n u).takeTransition k x) xs u)
  unfold Sys2Proof.Machine.esActive
  dsimp only
  split_ifs
  · exact hfold
  · exact hfold.stageStep handed

theorem esPassive (h : SettleStep n s u) : SettleStep n s (esPassive n u) := by
  unfold Sys2Proof.Machine.esPassive
  split_ifs
  · exact h.restoringStep
  · exact h

/-! ### The ledger -/

theorem applyAllowance (h : SettleStep n s u) (a : AllowanceStep) : SettleStep n s (applyAllowance n a u) := by
  unfold Sys2Proof.Machine.applyAllowance
  dsimp only
  split_ifs
  · exact (h.onTenant _).latchTenant _
  · exact h.onTenant _

theorem latchMove (h : SettleStep n s u) (kind : MachineKind) (m : Option Move) : SettleStep n s (latchMove n kind m u) := by
  unfold Sys2Proof.Machine.latchMove
  split
  · exact h.latchTenant _
  · exact h.latchTenant _
  · exact h

theorem evaluate (h : SettleStep n s u) (k : LimitFields) (kind : MachineKind) (c : Period) (complete : Bool) (ev : Option Evaluation) :
    SettleStep n s (evaluate k n kind c complete ev u).1 := by
  unfold Sys2Proof.Machine.evaluate
  split
  · exact h
  · exact (h.setTenant _ (by cases kind <;> exact ⟨rfl, rfl, rfl, rfl, rfl, fun _ h => h⟩)).latchMove kind _

theorem demandComputation (active : Bool) (k : Contract) (x : IntervalTotal) (fs : List FeedLimit) (used : List RingEntry)
    (h : SettleStep x.tenant s u) : SettleStep x.tenant s (demandComputation active k x fs used u).1 := by
  unfold Sys2Proof.Machine.demandComputation
  dsimp only
  split
  · exact (h.onTenant _).evaluate _ _ _ _ _
  · dsimp only
    exact h.onTenant _

theorem bucketStep (active both : Bool) (k : Contract) (x : IntervalTotal) (fs : List FeedLimit) (h : SettleStep x.tenant s u) :
    SettleStep x.tenant s (bucketStep active both k x fs u).1 := by
  unfold Sys2Proof.Machine.bucketStep
  dsimp only
  split
  · split
    · exact demandComputation active k x fs _ (h.setTenant _)
    · exact h.setTenant _
  · exact h.setTenant _

theorem summaryStep (h : SettleStep n s u) (k : Contract) (x : IntervalTotal) : SettleStep n s (summaryStep k x u) := by
  unfold Sys2Proof.Machine.summaryStep placeSummary
  split_ifs
  · exact h.of_tables_eq rfl rfl rfl
  · exact h.of_tables_eq rfl rfl rfl
  · exact h

end SettleStep

/-- Steps 3 to 7 of a settle under a contract: what reaches the last settled period and the slot. -/
def beforeSlot (k : Contract) (x : IntervalTotal) (s : State) : State :=
  let a := allowanceStep k.window (s.tenant x.tenant) x.feedA x.feedB
  let s := applyAllowance x.tenant a s
  summaryStep k x (if (s.tenant x.tenant).state = .active then judgeActive k a.holds x s else recordPassive k a.holds x s)

theorem settleUnder_eq (k : Contract) (x : IntervalTotal) (s : State) :
    settleUnder k x s = slotStep x.tenant x.period (onTenant x.tenant (fun r => { r with lastSettled := some x.period }) (beforeSlot k x s)) :=
  rfl

theorem settleStep_beforeSlot (k : Contract) (x : IntervalTotal) (s : State) : SettleStep x.tenant s (beforeSlot k x s) := by
  have h := (SettleStep.refl x.tenant s).applyAllowance (allowanceStep k.window (s.tenant x.tenant) x.feedA x.feedB)
  unfold beforeSlot
  dsimp only
  split_ifs
  · exact (SettleStep.esActive (SettleStep.bucketStep true _ k x _ (h.evaluate _ _ _ _ _)) _ _ _).summaryStep k x
  · exact (SettleStep.esPassive (SettleStep.bucketStep false _ k x [] h)).summaryStep k x

section Settle

variable {x : IntervalTotal} {s : State}

theorem settle_of_vacant (h : (s.tenant x.tenant).state = .vacant) : settle s x = s := if_pos h

theorem settle_of_contract {k : Contract} (h : (s.tenant x.tenant).state ≠ .vacant)
    (hk : (s.tenant x.tenant).contract.map (fun c => { c with limits := (s.tenant x.tenant).pendingLimits.getD c.limits }) = some k) :
    settle s x = settleUnder k x (addLifetime x (applyPending x.tenant s)) := by
  have hc : ((addLifetime x (applyPending x.tenant s)).tenant x.tenant).contract = some k := by
    rw [addLifetime_contract, applyPending_contract, hk]
  unfold settle
  rw [if_neg h]
  dsimp only
  rw [hc]

theorem settle_of_no_contract (h : (s.tenant x.tenant).state ≠ .vacant) (hk : (s.tenant x.tenant).contract = none) :
    settle s x = addLifetime x (applyPending x.tenant s) := by
  have hc : ((addLifetime x (applyPending x.tenant s)).tenant x.tenant).contract = none := by
    rw [addLifetime_contract, applyPending_contract, hk]; rfl
  unfold settle
  rw [if_neg h]
  dsimp only
  rw [hc]

theorem othersKept_applyPending (n : Nat) (s : State) : OthersKept n s (applyPending n s) := by
  unfold applyPending
  split
  · exact (othersKept_setTenant n _ s).trans (othersKept_setTenantMask n _ _)
  · exact .refl n s

theorem othersKept_addLifetime (x : IntervalTotal) (s : State) : OthersKept x.tenant s (addLifetime x s) := by
  unfold addLifetime
  dsimp only
  split_ifs
  · exact (othersKept_setTenant _ _ s).trans (othersKept_latchTenant _ _ _)
  · exact othersKept_setTenant _ _ s

theorem othersKept_slotStep (n : Nat) (c : Period) (s : State) : OthersKept n s (slotStep n c s) := by
  have hplaced : ∀ d, OthersKept n s (placeCompletion d s) := fun d => ((SettleStep.refl n s).placeCompletion d).others
  unfold slotStep serveStatement serveClose serveOwed
  split
  · split_ifs
    · exact othersKept_vacate n s
    · exact .refl n s
  · split
    · exact (hplaced _).trans (othersKept_setTenant n _ _)
    · exact .refl n s
  · split_ifs
    · exact (hplaced _).trans (othersKept_vacate n _)
    · exact .refl n s
  · exact .refl n s
  · split_ifs
    · exact (hplaced _).trans (othersKept_setTenant n _ _)
    · exact .refl n s

theorem othersKept_settleUnder (k : Contract) (x : IntervalTotal) (s : State) : OthersKept x.tenant s (settleUnder k x s) :=
  ((settleStep_beforeSlot k x s).others.trans (othersKept_setTenant _ _ _)).trans (othersKept_slotStep _ _ _)

theorem othersKept_settle (s : State) (x : IntervalTotal) : OthersKept x.tenant s (settle s x) := by
  have hfirst : OthersKept x.tenant s (addLifetime x (applyPending x.tenant s)) :=
    (othersKept_applyPending x.tenant s).trans (othersKept_addLifetime x _)
  by_cases hv : (s.tenant x.tenant).state = .vacant
  · rw [settle_of_vacant hv]
    exact .refl _ s
  · cases hk : (s.tenant x.tenant).contract with
    | none =>
      rw [settle_of_no_contract hv hk]
      exact hfirst
    | some k =>
      rw [settle_of_contract hv (congrArg _ hk)]
      exact hfirst.trans (othersKept_settleUnder _ x _)

end Settle

/-- Settles O39: each step of a settle writes the record, the escalation and the cause set of its own tenant. -/
theorem settleReachesItsTenantAlone : Obligations.SettleReachesItsTenantAlone := fun s x =>
  ⟨settle_of_vacant, fun m hm => ⟨(othersKept_settle s x).tenant m hm, (othersKept_settle s x).esc m hm, (othersKept_settle s x).causes m hm⟩⟩

/-! ### The record through the settle -/

section Record

variable {n : Nat} {s : State}

theorem applyPending_tenant {k : Contract} (hk : (s.tenant n).contract = some k) :
    (applyPending n s).tenant n =
      { s.tenant n with contract := some { k with limits := (s.tenant n).pendingLimits.getD k.limits }, pendingLimits := none } := by
  unfold applyPending
  cases hp : (s.tenant n).pendingLimits with
  | none => rw [hk]; exact congrArg₂ (fun c p => { s.tenant n with contract := c, pendingLimits := p }) hk hp
  | some p => rw [hk]; exact State.tenant_setTenant_same s n _

theorem applyPending_count (n : Nat) (s : State) : (applyPending n s).tl.count = s.tl.count := by
  unfold applyPending
  split <;> rfl

theorem addLifetime_tenant (x : IntervalTotal) (s : State) :
    (addLifetime x s).tenant x.tenant =
      { s.tenant x.tenant with
        lifetimeA := min 281474976710655 ((s.tenant x.tenant).lifetimeA + x.energyA)
        lifetimeB := min 281474976710655 ((s.tenant x.tenant).lifetimeB + x.energyB) } := by
  unfold addLifetime
  dsimp only
  split_ifs
  · rw [latchTenant_tenant]
    exact State.tenant_setTenant_same s _ _
  · exact State.tenant_setTenant_same s _ _

theorem addLifetime_count (x : IntervalTotal) (s : State) : (addLifetime x s).tl.count = s.tl.count := by
  unfold addLifetime
  dsimp only
  split_ifs
  · rw [writesNu_latchTenant .accumulatorSaturated x.tenant (s.setTenant x.tenant _)]
    rfl
  · rfl

theorem placeCompletion_tl (d : Completion) (s : State) : (placeCompletion d s).tl = s.tl := by
  unfold placeCompletion
  split_ifs <;> rfl

theorem placeCompletion_tenant (d : Completion) (s : State) (m : Nat) : (placeCompletion d s).tenant m = s.tenant m :=
  congrArg (fun l : Ledger => tableGet Tenant.initial l.tenants m) (placeCompletion_tl d s)

/-- The slot leaves the tenant's record but for the slot and the peak, or vacates a tenant that is CLOSING or whose close is due. -/
theorem slotStep_cases (n : Nat) (c : Period) (s : State) :
    (∃ x p, (slotStep n c s).tenant n = { s.tenant n with slot := x, peak := p }) ∨
      ∃ u, slotStep n c s = vacate n u ∧ u.tl = s.tl ∧ ((s.tenant n).state = .closing ∨ ∃ tag, (s.tenant n).slot = .closeTenant tag) := by
  unfold slotStep
  cases hslot : (s.tenant n).slot with
  | empty =>
    by_cases hc : (s.tenant n).state = .closing
    · exact .inr ⟨s, if_pos hc, rfl, .inl hc⟩
    · exact .inl ⟨_, _, congrArg (State.tenant · n) (if_neg hc)⟩
  | statement tag clearPeak =>
    refine .inl ?_
    dsimp only [serveStatement]
    split
    · exact ⟨.empty, _, (State.tenant_setTenant_same _ n _).trans (by rw [placeCompletion_tenant])⟩
    · exact ⟨_, _, rfl⟩
  | closeTenant tag =>
    dsimp only [serveClose]
    split
    · exact .inr ⟨_, rfl, placeCompletion_tl _ s, .inr ⟨tag, rfl⟩⟩
    · exact .inl ⟨_, _, rfl⟩
  | restoreOutlets tag => exact .inl ⟨_, _, rfl⟩
  | owed order tag outcome tallies =>
    refine .inl ?_
    dsimp only [serveOwed]
    split
    · exact ⟨.empty, _, (State.tenant_setTenant_same _ n _).trans (by rw [placeCompletion_tenant])⟩
    · exact ⟨_, _, rfl⟩

/-- What the passage to VACANT writes, block by block. -/
theorem vacate_eq (n : Nat) (s : State) :
    vacate n s =
      { s with
        oae := (s.setAccount n { s.account n with lastIncomplete := false }).oae
        tl := { (s.setTenant n Tenant.initial).tl with count := s.tl.count - 1 }
        es := (s.setEsc n { s.esc n with failed := [] }).es
        nu := { (s.setCauses n CauseSet.initial).nu with queue := s.nu.queue.filter fun x => x != n } } := rfl

theorem vacate_tenant (n m : Nat) (s : State) : (vacate n s).tenant m = (s.setTenant n Tenant.initial).tenant m := by
  rw [vacate_eq]
  rfl

theorem vacate_causes (n m : Nat) (s : State) : (vacate n s).causes m = (s.setCauses n CauseSet.initial).causes m := by
  rw [vacate_eq]
  rfl

end Record

/-- What reaches the slot in the settle of a tenant under its contract. -/
theorem settle_reaches_slot {x : IntervalTotal} {s : State} {k : Contract} (hv : (s.tenant x.tenant).state ≠ .vacant)
    (hk : (s.tenant x.tenant).contract = some k) :
    ∃ u, settle s x = slotStep x.tenant x.period u ∧ u.tl.count = s.tl.count ∧
      (u.tenant x.tenant).lastSettled = some x.period ∧
      RecordKept
        { s.tenant x.tenant with
          contract := some { k with limits := (s.tenant x.tenant).pendingLimits.getD k.limits }, pendingLimits := none
          lifetimeA := min 281474976710655 ((s.tenant x.tenant).lifetimeA + x.energyA)
          lifetimeB := min 281474976710655 ((s.tenant x.tenant).lifetimeB + x.energyB) } (u.tenant x.tenant) := by
  have hlater := (settleStep_beforeSlot { k with limits := (s.tenant x.tenant).pendingLimits.getD k.limits } x
    (addLifetime x (applyPending x.tenant s))).onTenant fun r => { r with lastSettled := some x.period }
  refine ⟨_, (settle_of_contract hv (congrArg _ hk)).trans (settleUnder_eq _ x _), ?_, ?_, ?_⟩
  · exact hlater.count.trans ((addLifetime_count x _).trans (applyPending_count _ s))
  · exact congrArg Tenant.lastSettled (State.tenant_setTenant_same _ _ _)
  · have hrecord := hlater.record
    rwa [addLifetime_tenant, applyPending_tenant hk] at hrecord

/-- Settles O40: steps 3 to 7 keep what steps 1 and 2 wrote, and the slot alone can vacate the tenant. -/
theorem settleAddsToTheLifetimeEnergies : Obligations.SettleAddsToTheLifetimeEnergies := by
  intro s x k hv hk
  obtain ⟨u, hsettle, hcount, hlast, hrecord⟩ := settle_reaches_slot hv hk
  rcases slotStep_cases x.tenant x.period u with ⟨slot, peak, htenant⟩ | ⟨v, hvacate, htl, hclosing⟩
  case inl =>
    have hafter : (settle s x).tenant x.tenant = { u.tenant x.tenant with slot := slot, peak := peak } := by rw [hsettle, htenant]
    have hstate : ((settle s x).tenant x.tenant).state = (s.tenant x.tenant).state := by rw [hafter]; exact hrecord.state
    have hnever : ((settle s x).tenant x.tenant).state ≠ .vacant := hstate ▸ hv
    refine ⟨fun _ => ?_, fun h => absurd h hnever, fun h => absurd h hnever⟩
    rw [hafter]
    exact ⟨hrecord.lifetimeA, hrecord.lifetimeB, hlast, hrecord.pendingLimits, hrecord.contract, hrecord.state⟩
  case inr =>
    rw [hsettle, hvacate]
    have hinitial : (vacate x.tenant v).tenant x.tenant = Tenant.initial :=
      (vacate_tenant _ _ v).trans (State.tenant_setTenant_same v _ _)
    have hcauses : (vacate x.tenant v).causes x.tenant = CauseSet.initial :=
      (vacate_causes _ _ v).trans (State.causes_setCauses_same v _ _)
    refine ⟨fun h => absurd (congrArg Tenant.state hinitial) h, fun _ => ?_, fun _ => ⟨hinitial, hcauses, ?_⟩⟩
    · exact hclosing.imp (fun h => hrecord.state.symm.trans h) fun ⟨tag, h⟩ => ⟨tag, hrecord.close tag h⟩
    · exact congrArg (· - 1) ((congrArg Ledger.count htl).trans hcount)

end Sys2Proof.Stated
end

section

/-! ### The steps of a settle, in order -/

namespace Sys2Proof.Stated

open Sys2Proof.Machine

theorem energyMax_eq : Config.energyMax = 281474976710655 := rfl

section Mask

variable (n : Nat) (mask : BitVec 16) (s : State)

/-- The mask of a tenant replaced: its cause set and its place in the Notice Queue. -/
theorem tenantMasked_setTenantMask : TenantMasked n mask s (setTenantMask n mask s).nu :=
  ⟨congrArg (fun q => { s.nu with tenants := (setTenantMask n mask s).nu.tenants, queue := q }) (requeue_eq_requeued n _ s.nu.queue),
    State.causes_setCauses_same s n _, fun _ hm => causes_setCauses_other s _ hm⟩

/-- NU's part of a mask replaced does not depend on the other blocks. -/
theorem setTenantMask_of_nu_eq {t : State} (h : t.nu = s.nu) : setTenantMask n mask t = { t with nu := (setTenantMask n mask s).nu } :=
  congrArg (fun nu => { t with nu := (setTenantMask n mask { s with nu := nu }).nu }) h

end Mask

section Steps

variable {n : Nat} {s : State}

theorem applyPending_of_none (h : (s.tenant n).pendingLimits = none) : applyPending n s = s := by
  unfold applyPending
  rw [h]
  cases (s.tenant n).contract <;> rfl

theorem applyPending_of_pending {k : Contract} {p : LimitFields} (hk : (s.tenant n).contract = some k)
    (hp : (s.tenant n).pendingLimits = some p) :
    applyPending n s =
      setTenantMask n p.mask (s.setTenant n { s.tenant n with contract := some { k with limits := p }, pendingLimits := none }) := by
  unfold applyPending
  rw [hk, hp]
  rfl

theorem saturates_iff (old add : Nat) : saturates old add = true ↔ old < 281474976710655 ∧ 281474976710655 ≤ old + add := by
  rw [saturates, decide_eq_true_iff, satAdd, energyMax_eq]
  exact and_congr_right fun _ => min_eq_left_iff

theorem addLifetime_eq (x : IntervalTotal) (s : State) :
    addLifetime x s =
      (if (s.tenant x.tenant).lifetimeA < 281474976710655 ∧ 281474976710655 ≤ (s.tenant x.tenant).lifetimeA + x.energyA ∨
          (s.tenant x.tenant).lifetimeB < 281474976710655 ∧ 281474976710655 ≤ (s.tenant x.tenant).lifetimeB + x.energyB then
        latchTenant .accumulatorSaturated x.tenant (s.setTenant x.tenant { s.tenant x.tenant with
          lifetimeA := min 281474976710655 ((s.tenant x.tenant).lifetimeA + x.energyA)
          lifetimeB := min 281474976710655 ((s.tenant x.tenant).lifetimeB + x.energyB) })
      else s.setTenant x.tenant { s.tenant x.tenant with
          lifetimeA := min 281474976710655 ((s.tenant x.tenant).lifetimeA + x.energyA)
          lifetimeB := min 281474976710655 ((s.tenant x.tenant).lifetimeB + x.energyB) }) := by
  unfold addLifetime
  dsimp only
  exact if_congr (by rw [Bool.or_eq_true, saturates_iff, saturates_iff]) rfl rfl

theorem beforeSlot_of_active {k : Contract} {x : IntervalTotal} (h : (s.tenant x.tenant).state = .active) :
    beforeSlot k x s = summaryStep k x (judgeActive k (allowanceStep k.window (s.tenant x.tenant) x.feedA x.feedB).holds x
      (applyAllowance x.tenant (allowanceStep k.window (s.tenant x.tenant) x.feedA x.feedB) s)) :=
  congrArg (summaryStep k x) (if_pos ((applyAllowance_state _ _ s).trans h))

theorem beforeSlot_of_passive {k : Contract} {x : IntervalTotal} (h : (s.tenant x.tenant).state ≠ .active) :
    beforeSlot k x s = summaryStep k x (recordPassive k (allowanceStep k.window (s.tenant x.tenant) x.feedA x.feedB).holds x
      (applyAllowance x.tenant (allowanceStep k.window (s.tenant x.tenant) x.feedA x.feedB) s)) :=
  congrArg (summaryStep k x) (if_neg fun ha => h ((applyAllowance_state _ _ s).symm.trans ha))

/-- A settle under a contract ends with the last settled period and the slot. -/
theorem settle_ends {x : IntervalTotal} {k : Contract} {u y : State} (hv : (s.tenant x.tenant).state ≠ .vacant)
    (hk : (s.tenant x.tenant).contract.map (fun c => { c with limits := (s.tenant x.tenant).pendingLimits.getD c.limits }) = some k)
    (hu : u = addLifetime x (applyPending x.tenant s)) (hy : beforeSlot k x u = summaryStep k x y) :
    ∃ z, OneTenant x.tenant { (summaryStep k x y).tenant x.tenant with lastSettled := some x.period } (summaryStep k x y) z ∧
      settle s x = slotStep x.tenant x.period z := by
  refine ⟨_, oneTenant_setTenant _ _ _, ?_⟩
  rw [settle_of_contract hv hk, settleUnder_eq, ← hu, hy]
  rfl

theorem addLifetime_applyPending_state (x : IntervalTotal) (s : State) :
    ((addLifetime x (applyPending x.tenant s)).tenant x.tenant).state = (s.tenant x.tenant).state :=
  (addLifetime_state x _).trans (applyPending_state _ s)

end Steps

/-- Settles O60: the definition of the settle with its steps named, and what each of the first three steps writes. -/
theorem settleRunsItsStepsInOrder : Obligations.SettleRunsItsStepsInOrder := by
  refine ⟨?order, ?pending, ?lifetime, ?allowance, ?handed⟩
  case order =>
    intro s u v w y x k a fs n hn hv hk hu ha hvdef hfs
    subst hn
    have hstate : (u.tenant x.tenant).state = (s.tenant x.tenant).state := hu ▸ addLifetime_applyPending_state x s
    refine ⟨fun hactive hw hy => settle_ends hv hk hu ?active, fun hpassive hw hy => settle_ends hv hk hu ?passive⟩
    case active =>
      rw [beforeSlot_of_active (hstate.trans hactive), hy, hw, hfs, hvdef, ha]
      rfl
    case passive =>
      rw [beforeSlot_of_passive (fun h => hpassive (hstate.symm.trans h)), hy, hw, hvdef, ha]
      rfl
  case pending =>
    refine fun n s => ⟨applyPending_of_none, fun k p hk hp => ?_⟩
    refine ⟨_, (setTenantMask n p.mask s).nu, tenantMasked_setTenantMask n p.mask s, oneTenant_setTenant s n _, ?_⟩
    exact (applyPending_of_pending hk hp).trans (setTenantMask_of_nu_eq n p.mask s rfl)
  case lifetime => exact fun x s => ⟨_, oneTenant_setTenant s x.tenant _, addLifetime_eq x s⟩
  case allowance => exact fun n a s => ⟨_, oneTenant_setTenant s n _, rfl⟩
  case handed =>
    refine fun k x fs => List.map_congr_left fun f _ => ?_
    cases f with
    | mk scope limit => cases scope <;> rfl

end Sys2Proof.Stated
end

section

/-! ### SET-CONTRACT -/

namespace Sys2Proof.Stated

open Sys2Proof.Machine

/-! ### The checks of the tenant orders -/

theorem validTenant_iff_isTenant (n : Nat) : validTenant n = true ↔ IsTenant n := validTenant_iff n

theorem validTenant_eq_false_iff (n : Nat) : validTenant n = false ↔ ¬ IsTenant n := by
  rw [← validTenant_iff_isTenant, Bool.not_eq_true]

theorem locked_iff (s : State) (n : Nat) : s.locked n = true ↔ GroupLocked s n := Iff.rfl

theorem capacityTwoOk_iff {f : ContractFields} (h : f.cls ≤ 1) :
    capacityTwoOk f = true ↔ f.cls = 0 ∧ f.capacity2 = 0 ∨ f.cls = 1 ∧ 1 ≤ f.capacity2 ∧ f.capacity2 ≤ 1048575 := by
  unfold capacityTwoOk
  by_cases hcls : f.cls = 0
  · rw [if_pos hcls, decide_eq_true_iff]
    omega
  · rw [if_neg hcls, decide_eq_true_iff]
    omega

/-- The contract order's ranges are those of the statements. -/
theorem contractRanges_iff (n : Nat) (f : ContractFields) :
    ContractRanges n f ↔ validTenant n = true ∧ contractInRange f = true := by
  have hmask : f.mask &&& ~~~allTenantCauses = 0#16 ↔ f.mask &&& 0xF800 = 0 := Iff.rfl
  simp only [ContractRanges, contractInRange, Bool.and_eq_true, decide_eq_true_iff, validTenant_iff_isTenant, hmask]
  constructor
  · rintro ⟨htenant, hcls, hcap, hcap', hcap2, hrest⟩
    have hok := (capacityTwoOk_iff hcls).2 hcap2
    tauto
  · rintro ⟨htenant, ⟨⟨⟨⟨⟨hcls, hlimits⟩, hok⟩, hgrace⟩, hwindow⟩, haction⟩, hbits⟩
    have hcap2 := (capacityTwoOk_iff hcls).1 hok
    tauto

section Answers

variable {n : Nat} {f : ContractFields} {s : State}

theorem ownSetContract_of_out_of_range (h : ¬ ContractRanges n f) : ownSetContract n f s = (s, .plain .invalidParameter) := by
  rw [contractRanges_iff, not_and_or, Bool.not_eq_true, Bool.not_eq_true] at h
  exact if_pos h

theorem ownSetContract_of_locked (h : ContractRanges n f) (hl : GroupLocked s n) : ownSetContract n f s = (s, .plain .locked) := by
  rw [contractRanges_iff] at h
  exact (if_neg (by simp [h])).trans (if_pos hl)

/-- Past the lock check the tenant's state decides. -/
theorem ownSetContract_of_unlocked (h : ContractRanges n f) (hl : ¬ GroupLocked s n) :
    ownSetContract n f s =
      match (s.tenant n).state with
      | .closing => (s, .plain .busy)
      | .vacant => (createTenant n (contractFrom f) s, .done [0])
      | .held => (setTenantMask n f.mask (s.setTenant n (replaceContract (contractFrom f) (s.tenant n))), .done [0])
      | .active =>
        if (s.tenant n).contract.map Contract.window = some (contractFrom f).window then
          (s.setTenant n { s.tenant n with pendingLimits := some (contractFrom f).limits }, .done [1])
        else (s, .plain .incorrectState) := by
  rw [contractRanges_iff] at h
  have hrange : ¬ (validTenant n = false ∨ contractInRange f = false) := by simp [h]
  exact (if_neg hrange).trans (if_neg (mt (locked_iff s n).1 hl))

end Answers

/-- A tenant created: its record under the contract, the count, and its mask in NU. -/
theorem createTenant_eq (n : Nat) (k : Contract) (s : State) :
    createTenant n k s =
      { s.setTenant n { Tenant.initial with state := .active, contract := some k } with
        tl := { (s.setTenant n { Tenant.initial with state := .active, contract := some k }).tl with count := s.tl.count + 1 }
        nu := (setTenantMask n k.limits.mask s).nu } :=
  rfl

/-- Settles O41: TL's checks of SET-CONTRACT in their order, then the tenant's state decides. -/
theorem setContractByTheTenantsState : Obligations.SetContractByTheTenantsState := by
  intro tag n f s hown
  have hexec : exec (.setContract tag n f) s = .next (takeOrder (.setContract tag n f) tag 0x40 (ownSetContract n f) s) := rfl
  refine ⟨fun hbad => ?range, fun hr hl => ?lock,
    fun hr hl => ⟨fun hst => ?closing, fun hst hw => ?window, fun hst hw => ?pending, fun hst => ?vacant, fun hst => ?held⟩⟩
  case range => exact refused_of_owner hexec hown (ownSetContract_of_out_of_range hbad)
  case lock => exact refused_of_owner hexec hown (ownSetContract_of_locked hr hl)
  all_goals have howner := ownSetContract_of_unlocked hr hl
  all_goals rw [hst] at howner
  case closing => exact refused_of_owner hexec hown howner
  case window => exact refused_of_owner hexec hown (howner.trans (if_neg hw))
  case pending =>
    exact ⟨_, oneTenant_setTenant s n _, exec_order_of_atOwner hexec hown (howner.trans (if_pos hw))⟩
  case vacant =>
    exact ⟨_, _, tenantMasked_setTenantMask n f.mask s, oneTenant_setTenant s n { Tenant.initial with state := .active, contract := _ },
      exec_order_of_atOwner hexec hown (howner.trans (congrArg (·, Answer.done [0]) (createTenant_eq n _ s)))⟩
  case held =>
    exact ⟨_, _, tenantMasked_setTenantMask n f.mask s, oneTenant_setTenant s n (replaceContract (contractFrom f) (s.tenant n)),
      exec_order_of_atOwner hexec hown (howner.trans (congrArg (·, Answer.done [0]) (setTenantMask_of_nu_eq n f.mask s rfl)))⟩

end Sys2Proof.Stated
end

section

/-! ### The stage returned to IDLE, HOLD-TENANT and RESUME-TENANT -/

namespace Sys2Proof.Stated

open Sys2Proof.Machine

/-! ### The stage returned to IDLE -/

/-- A write of what ES keeps of one tenant changes that alone. -/
theorem oneEsc_setEsc (s : State) (n : Nat) (e : Escalation) : OneEsc n e s (s.setEsc n e) :=
  ⟨rfl, State.esc_setEsc_same s n e, fun _ hm => esc_setEsc_of_ne s e hm⟩

section Idle

variable {n : Nat} {s : State}

/-- SHEDDING is left: the OFF entries are withdrawn and nothing is awaited. -/
theorem leaveShedding_spec (n : Nat) (s : State) :
    leaveShedding n s = { s with mlc := (withdrawRequest n s).mlc, es := (leaveShedding n s).es } ∧
      (leaveShedding n s).esc n = { s.esc n with awaiting := none } ∧ (∀ m, m ≠ n → (leaveShedding n s).esc m = s.esc m) := by
  obtain ⟨-, hesc, hothers⟩ := oneEsc_setEsc (withdrawRequest n s) n { (withdrawRequest n s).esc n with awaiting := none }
  exact ⟨rfl, hesc, hothers⟩

theorem stageToIdle_of_idle (h : (s.esc n).stage = .idle) : stageToIdle n s = s := by rw [stageToIdle, h]

theorem stageToIdle_of_armed (h : (s.esc n).stage = .armed) :
    stageToIdle n s = s.setEsc n { s.esc n with stage := .idle, countdown := none } := by rw [stageToIdle, h]

theorem stageToIdle_of_shedding (h : (s.esc n).stage = .shedding) :
    stageToIdle n s = leaveShedding n (s.setEsc n { s.esc n with stage := .idle }) := by
  rw [stageToIdle, h]
  rfl

theorem stageToIdle_of_shedHold (h : (s.esc n).stage = .shedHold) : stageToIdle n s = s.setEsc n { s.esc n with stage := .idle } := by
  rw [stageToIdle, h]
  rfl

theorem stageToIdle_of_restoring (h : (s.esc n).stage = .restoring) : stageToIdle n s = abandonRestore n s := by rw [stageToIdle, h]

/-- What ES keeps of a tenant whose restore has been dropped. -/
def restoreDropped (e : Escalation) : Escalation := { e with stage := .idle, awaiting := none, cursor := none, tallies := none }

/-- The outcome of a restore ended by an order. -/
def abandonedOutcome (e : Escalation) : CompletionOutcome :=
  if e.shedOrder = [] then if (e.tallies.getD Tallies.zero).atLimit = 0 then .restored else .partialRestore else .abandoned

theorem abandonRestore_of_other (h : ∀ tag, (s.tenant n).slot ≠ .restoreOutlets tag) :
    abandonRestore n s = s.setEsc n (restoreDropped (s.esc n)) := by
  unfold abandonRestore
  split
  · next tag hslot => exact absurd hslot (h tag)
  · rfl

theorem abandonRestore_of_room {tag : Byte} (h : (s.tenant n).slot = .restoreOutlets tag) (hroom : s.tp.completions.length < 32) :
    abandonRestore n s =
      setSlot n .empty ((placed
        { code := 0x50, tag := tag, outcome := abandonedOutcome (s.esc n), body := .restore n ((s.esc n).tallies.getD Tallies.zero) }
        s).setEsc n (restoreDropped (s.esc n))) := by
  unfold abandonRestore
  rw [h]
  exact (if_pos ((completionRoom_iff s).2 hroom)).trans
    (congrArg (fun t => setSlot n .empty (dropRestore n t)) (placeCompletion_of_room hroom _))

theorem abandonRestore_of_full {tag : Byte} (h : (s.tenant n).slot = .restoreOutlets tag) (hfull : 32 ≤ s.tp.completions.length) :
    abandonRestore n s =
      setSlot n (.owed .restoreOutlets tag (abandonedOutcome (s.esc n)) (some ((s.esc n).tallies.getD Tallies.zero)))
        (s.setEsc n (restoreDropped (s.esc n))) := by
  unfold abandonRestore
  rw [h]
  exact if_neg (mt (completionRoom_iff s).1 (Nat.not_lt.2 hfull))

/-- The part of the statement that does not depend on the stage: the stage is IDLE, the shed order and the failed set are kept, and of TL only
the tenant's slot may be written. -/
def IdleReached (n : Nat) (s t : State) : Prop :=
  t = { s with mlc := t.mlc, tl := t.tl, es := t.es, tp := t.tp } ∧
    (t.esc n).stage = .idle ∧ (t.esc n).shedOrder = (s.esc n).shedOrder ∧ (t.esc n).failed = (s.esc n).failed ∧
    (∀ m, m ≠ n → t.esc m = s.esc m ∧ t.tenant m = s.tenant m) ∧ t.tl.count = s.tl.count ∧
    t.tenant n = { s.tenant n with slot := (t.tenant n).slot }

theorem idleReached_of_setEsc {e : Escalation} (hstage : e.stage = .idle) (horder : e.shedOrder = (s.esc n).shedOrder)
    (hfailed : e.failed = (s.esc n).failed) : IdleReached n s (s.setEsc n e) := by
  have hesc := State.esc_setEsc_same s n e
  exact ⟨rfl, by rw [hesc, hstage], by rw [hesc, horder], by rw [hesc, hfailed], fun m hm => ⟨esc_setEsc_of_ne s e hm, rfl⟩, rfl, rfl⟩

/-- The slot of the tenant and TP may be written beside. -/
theorem IdleReached.setSlot {t u : State} (h : IdleReached n s t) (x : LongSlot) (hu : u = { t with tp := u.tp }) :
    IdleReached n s (setSlot n x u) := by
  obtain ⟨hframe, hstage, horder, hfailed, hothers, hcount, hrecord⟩ := h
  have hsame := State.tenant_setTenant_same u n { u.tenant n with slot := x }
  have htenant : ∀ m, u.tenant m = t.tenant m := fun m => by rw [hu]; rfl
  have hesc : ∀ m, u.esc m = t.esc m := fun m => by rw [hu]; rfl
  refine ⟨?_, ?_, ?_, ?_, fun m hm => ⟨(hesc m).trans (hothers m hm).1, ?_⟩, ?_, ?_⟩
  · unfold Sys2Proof.Machine.setSlot
    rw [hu, hframe]
    rfl
  · exact (congrArg Escalation.stage (hesc n)).trans hstage
  · exact (congrArg Escalation.shedOrder (hesc n)).trans horder
  · exact (congrArg Escalation.failed (hesc n)).trans hfailed
  · exact (State.tenant_setTenant_other u _ hm.symm).trans ((htenant m).trans (hothers m hm).2)
  · rw [← hcount, hu]; rfl
  · rw [Sys2Proof.Machine.setSlot, hsame, htenant, hrecord]

theorem idleReached_abandonRestore {tag : Byte} (h : (s.tenant n).slot = .restoreOutlets tag) : IdleReached n s (abandonRestore n s) := by
  have hdropped : IdleReached n s (s.setEsc n (restoreDropped (s.esc n))) := idleReached_of_setEsc rfl rfl rfl
  rcases Nat.lt_or_ge s.tp.completions.length 32 with hroom | hfull
  · rw [abandonRestore_of_room h hroom]
    exact hdropped.setSlot .empty rfl
  · rw [abandonRestore_of_full h hfull]
    exact hdropped.setSlot _ rfl

/-- What becomes of the completion of a restore ended by an order. -/
theorem abandonRestore_spec {tag : Byte} (h : (s.tenant n).slot = .restoreOutlets tag) :
    ((abandonRestore n s).esc n).awaiting = none ∧ ((abandonRestore n s).esc n).cursor = none ∧ (abandonRestore n s).mlc = s.mlc ∧
      (s.tp.completions.length < 32 → ((abandonRestore n s).tenant n).slot = .empty ∧
        (abandonRestore n s).tp = { s.tp with
          completions := s.tp.completions ++
            [{ code := 0x50, tag := tag, outcome := abandonedOutcome (s.esc n)
               body := .restore n ((s.esc n).tallies.getD Tallies.zero) }] }) ∧
      (32 ≤ s.tp.completions.length →
        ((abandonRestore n s).tenant n).slot =
          .owed .restoreOutlets tag (abandonedOutcome (s.esc n)) (some ((s.esc n).tallies.getD Tallies.zero)) ∧
        (abandonRestore n s).tp = s.tp) := by
  have hesc : (s.setEsc n (restoreDropped (s.esc n))).esc n = restoreDropped (s.esc n) := State.esc_setEsc_same s n _
  rcases Nat.lt_or_ge s.tp.completions.length 32 with hroom | hfull
  · rw [abandonRestore_of_room h hroom]
    exact ⟨congrArg Escalation.awaiting hesc, congrArg Escalation.cursor hesc, rfl,
      fun _ => ⟨congrArg Tenant.slot (State.tenant_setTenant_same _ n _), rfl⟩, fun hge => absurd hroom (Nat.not_lt.2 hge)⟩
  · rw [abandonRestore_of_full h hfull]
    exact ⟨congrArg Escalation.awaiting hesc, congrArg Escalation.cursor hesc, rfl, fun hlt => absurd hlt (Nat.not_lt.2 hfull),
      fun _ => ⟨congrArg Tenant.slot (State.tenant_setTenant_same _ n _), rfl⟩⟩

/-- The stage of a tenant returned to IDLE, as the statements write it. -/
theorem stageReturned_stageToIdle (n : Nat) (s : State) : StageReturned n s (stageToIdle n s) := by
  suffices h : IdleReached n s (stageToIdle n s) ∧ _ by
    obtain ⟨⟨hframe, hstage, horder, hfailed, hothers, hcount, hrecord⟩, hcases⟩ := h
    exact ⟨hframe, hstage, horder, hfailed, hothers, hcount, hrecord, hcases⟩
  cases hstage : (s.esc n).stage with
  | idle =>
    rw [stageToIdle_of_idle hstage]
    exact ⟨⟨rfl, hstage, rfl, rfl, fun _ _ => ⟨rfl, rfl⟩, rfl, rfl⟩, fun _ => rfl, nofun, nofun, nofun, nofun⟩
  | armed =>
    rw [stageToIdle_of_armed hstage]
    exact ⟨idleReached_of_setEsc rfl rfl rfl, nofun, fun _ => ⟨rfl, congrArg Escalation.countdown (State.esc_setEsc_same s n _)⟩,
      nofun, nofun, nofun⟩
  | shedding =>
    rw [stageToIdle_of_shedding hstage]
    obtain ⟨hframe, hesc, hothers⟩ := leaveShedding_spec n (s.setEsc n { s.esc n with stage := .idle })
    rw [State.esc_setEsc_same] at hesc
    refine ⟨⟨by rw [hframe]; rfl, by rw [hesc], by rw [hesc], by rw [hesc], fun m hm => ⟨?_, rfl⟩, rfl, rfl⟩, nofun, nofun,
      fun _ => ⟨by rw [hframe]; rfl, by rw [hesc], offWithdrawn_withdrawRequest n s⟩, nofun, nofun⟩
    exact (hothers m hm).trans (esc_setEsc_of_ne s _ hm)
  | shedHold =>
    rw [stageToIdle_of_shedHold hstage]
    exact ⟨idleReached_of_setEsc rfl rfl rfl, nofun, nofun, nofun, fun _ => rfl, nofun⟩
  | restoring =>
    rw [stageToIdle_of_restoring hstage]
    have hdropped : IdleReached n s (s.setEsc n (restoreDropped (s.esc n))) := idleReached_of_setEsc rfl rfl rfl
    by_cases hother : ∀ tag, (s.tenant n).slot ≠ .restoreOutlets tag
    case pos =>
      rw [abandonRestore_of_other hother]
      exact ⟨hdropped, nofun, nofun, nofun, nofun, fun tag _ hslot => absurd hslot (hother tag)⟩
    case neg =>
      push Not at hother
      obtain ⟨tag, hslot⟩ := hother
      refine ⟨?reached, nofun, nofun, nofun, nofun, fun tag' _ hslot' => ⟨abandonedOutcome (s.esc n), _, rfl, rfl, ?ended⟩⟩
      case reached => exact idleReached_abandonRestore hslot
      case ended =>
        obtain rfl : tag = tag' := LongSlot.restoreOutlets.inj (hslot.symm.trans hslot')
        exact abandonRestore_spec hslot

end Idle

/-! ### The machines closed by an order -/

theorem appendBreach_appendBreach (log : List ClosedBreach) (e e' : ClosedBreach) :
    appendBreach (appendBreach log e) e' = List.drop (log.length + 2 - 4) (log ++ [e, e']) := by
  have hsplit : log ++ [e, e'] = (log ++ [e]) ++ [e'] := by simp
  have hle : log.length - 3 ≤ (log ++ [e]).length := by
    rw [List.length_append]
    omega
  rw [appendBreach_eq, appendBreach_eq, hsplit, ← List.drop_append_of_le_length hle, List.drop_drop, List.length_drop,
    List.length_append, List.length_singleton]
  congr 1
  omega

/-- An order closes both machines of a tenant, the open breach of BURST first. -/
theorem machinesClosed_closeMachines (outcome : BreachOutcome) (r : Tenant) : MachinesClosed outcome r (closeMachines outcome r) := by
  refine ⟨rfl, rfl, rfl, _, rfl, ?_⟩
  unfold closeMachines
  cases r.burst.breach with
  | none =>
    cases r.demand.breach with
    | none => exact ⟨fun _ => rfl, fun h => absurd rfl h⟩
    | some d => exact ⟨nofun, fun _ => appendBreach_eq r.breachLog _⟩
  | some b =>
    cases r.demand.breach with
    | none => exact ⟨nofun, fun _ => appendBreach_eq r.breachLog _⟩
    | some d => exact ⟨nofun, fun _ => appendBreach_appendBreach r.breachLog _ _⟩

/-! ### HOLD-TENANT and RESUME-TENANT -/

section Owners

variable {n : Nat} {s : State}

theorem ownHoldTenant_of_not_tenant (h : ¬ IsTenant n) : ownHoldTenant n s = (s, .plain .invalidParameter) :=
  if_pos ((validTenant_eq_false_iff n).2 h)

theorem ownHoldTenant_of_locked (h : IsTenant n) (hl : GroupLocked s n) : ownHoldTenant n s = (s, .plain .locked) :=
  (if_neg fun hv => (validTenant_eq_false_iff n).1 hv h).trans (if_pos hl)

theorem ownHoldTenant_of_unlocked (h : IsTenant n) (hl : ¬ GroupLocked s n) :
    ownHoldTenant n s = if (s.tenant n).state ≠ .active then (s, .plain .incorrectState) else (holdTenant n s, .done []) :=
  (if_neg fun hv => (validTenant_eq_false_iff n).1 hv h).trans (if_neg hl)

theorem ownResumeTenant_of_not_tenant (h : ¬ IsTenant n) : ownResumeTenant n s = (s, .plain .invalidParameter) :=
  if_pos ((validTenant_eq_false_iff n).2 h)

theorem ownResumeTenant_of_locked (h : IsTenant n) (hl : GroupLocked s n) : ownResumeTenant n s = (s, .plain .locked) :=
  (if_neg fun hv => (validTenant_eq_false_iff n).1 hv h).trans (if_pos hl)

theorem ownResumeTenant_of_unlocked (h : IsTenant n) (hl : ¬ GroupLocked s n) :
    ownResumeTenant n s =
      if (s.tenant n).state ≠ .held then (s, .plain .incorrectState)
      else (s.setTenant n { s.tenant n with state := .active }, .done []) :=
  (if_neg fun hv => (validTenant_eq_false_iff n).1 hv h).trans (if_neg hl)

end Owners

/-- Settles O42: TL's checks of the two orders, and the three parts of a hold. -/
theorem holdAndResumeTenant : Obligations.HoldAndResumeTenant := by
  refine ⟨fun tag n s hown => ?hold, fun tag n s hown => ?resume⟩
  case hold =>
    have hexec : exec (.holdTenant tag n) s = .next (takeOrder (.holdTenant tag n) tag 0x41 (ownHoldTenant n) s) := rfl
    refine ⟨fun hbad => ?range, fun hr hl => ?lock, fun hr hl hst => ?state, fun hr hl hst => ?done⟩
    case range => exact refused_of_owner hexec hown (ownHoldTenant_of_not_tenant hbad)
    case lock => exact refused_of_owner hexec hown (ownHoldTenant_of_locked hr hl)
    case state => exact refused_of_owner hexec hown ((ownHoldTenant_of_unlocked hr hl).trans (if_pos hst))
    case done =>
      exact ⟨_, _, _, _, machinesClosed_closeMachines .held (s.tenant n), oneTenant_setTenant s n _, stageReturned_stageToIdle n _,
        oneTenant_setTenant _ n _,
        exec_order_of_atOwner hexec hown ((ownHoldTenant_of_unlocked hr hl).trans (if_neg fun h => h hst))⟩
  case resume =>
    have hexec : exec (.resumeTenant tag n) s = .next (takeOrder (.resumeTenant tag n) tag 0x42 (ownResumeTenant n) s) := rfl
    refine ⟨fun hbad => ?range, fun hr hl => ?lock, fun hr hl hst => ?state, fun hr hl hst => ?done⟩
    case range => exact refused_of_owner hexec hown (ownResumeTenant_of_not_tenant hbad)
    case lock => exact refused_of_owner hexec hown (ownResumeTenant_of_locked hr hl)
    case state => exact refused_of_owner hexec hown ((ownResumeTenant_of_unlocked hr hl).trans (if_pos hst))
    case done =>
      exact ⟨_, oneTenant_setTenant s n _,
        exec_order_of_atOwner hexec hown ((ownResumeTenant_of_unlocked hr hl).trans (if_neg fun h => h hst))⟩

end Sys2Proof.Stated
end

section

/-! ### STATEMENT, CLOSE-TENANT and the last steps of a settle -/

namespace Sys2Proof.Stated

open Sys2Proof.Machine

section Owners

variable {tag : Byte} {n cp : Nat} {s : State}

theorem ownStatement_of_out_of_range (h : ¬ (IsTenant n ∧ cp ≤ 1)) : ownStatement tag n cp s = (s, .plain .invalidParameter) := by
  rw [not_and_or, Nat.not_le, ← validTenant_eq_false_iff] at h
  exact if_pos h

/-- Past the range check the lock matters to a statement that clears the peak. -/
theorem ownStatement_of_range (h : IsTenant n) (hcp : cp ≤ 1) :
    ownStatement tag n cp s =
      if cp = 1 ∧ s.locked n then (s, .plain .locked)
      else if (s.tenant n).state = .vacant ∨ (s.tenant n).state = .closing then (s, .plain .incorrectState)
      else if (s.tenant n).slot ≠ .empty then (s, .plain .busy)
      else (setSlot n (.statement tag (decide (cp = 1))) s, .plain .accepted) :=
  if_neg fun hv => hv.elim (fun hv => (validTenant_eq_false_iff n).1 hv h) (Nat.not_lt.2 hcp)

theorem ownStatement_of_unlocked (h : IsTenant n) (hcp : cp ≤ 1) (hl : cp = 0 ∨ ¬ GroupLocked s n) :
    ownStatement tag n cp s =
      if (s.tenant n).state = .vacant ∨ (s.tenant n).state = .closing then (s, .plain .incorrectState)
      else if (s.tenant n).slot ≠ .empty then (s, .plain .busy)
      else (setSlot n (.statement tag (decide (cp = 1))) s, .plain .accepted) := by
  rw [ownStatement_of_range h hcp, if_neg]
  rintro ⟨hone, hlocked⟩
  exact hl.elim (fun hzero => by omega) fun hfree => hfree ((locked_iff s n).1 hlocked)

theorem anyOutletNames_iff (s : State) (n : Nat) :
    s.anyOutletNames n = true ↔ ∃ k o, (k, o) ∈ s.ot.outlets ∧ o.binding ≠ .unbound ∧ ∃ e ∈ o.shares, e.tenant = n := by
  simp only [State.anyOutletNames, Outlet.names, List.any_eq_true, Bool.and_eq_true, listed_iff, beq_iff_eq, Prod.exists]

theorem ownCloseTenant_of_not_tenant (h : ¬ IsTenant n) : ownCloseTenant tag n s = (s, .plain .invalidParameter) :=
  if_pos ((validTenant_eq_false_iff n).2 h)

theorem ownCloseTenant_of_locked (h : IsTenant n) (hl : GroupLocked s n) : ownCloseTenant tag n s = (s, .plain .locked) :=
  (if_neg fun hv => (validTenant_eq_false_iff n).1 hv h).trans (if_pos hl)

theorem ownCloseTenant_of_unlocked (h : IsTenant n) (hl : ¬ GroupLocked s n) :
    ownCloseTenant tag n s =
      if (s.tenant n).state = .vacant ∨ (s.tenant n).state = .closing ∨ s.anyOutletNames n = true then (s, .plain .incorrectState)
      else if (s.tenant n).slot ≠ .empty then (s, .plain .busy)
      else (closeTenant tag n s, .plain .accepted) :=
  (if_neg fun hv => (validTenant_eq_false_iff n).1 hv h).trans (if_neg hl)

theorem not_vacant_or_closing (h : (s.tenant n).state = .active ∨ (s.tenant n).state = .held) :
    ¬ ((s.tenant n).state = .vacant ∨ (s.tenant n).state = .closing) := by
  rcases h with h | h <;> rw [h] <;> decide

theorem not_vacant_closing_or_named (h : (s.tenant n).state = .active ∨ (s.tenant n).state = .held)
    (hnone : ∀ k o, (k, o) ∈ s.ot.outlets → o.binding ≠ .unbound → ∀ e ∈ o.shares, e.tenant ≠ n) :
    ¬ ((s.tenant n).state = .vacant ∨ (s.tenant n).state = .closing ∨ s.anyOutletNames n = true) := by
  rw [anyOutletNames_iff]
  rintro (hv | hc | ⟨k, o, hmem, hb, e, he, htenant⟩)
  · exact not_vacant_or_closing h (.inl hv)
  · exact not_vacant_or_closing h (.inr hc)
  · exact hnone k o hmem hb e he htenant

end Owners

/-! ### Steps 7 and 8 of a settle -/

section Slot

variable {n : Nat} {c : Period} {s : State}

/-- The passage to VACANT, as the statements write it. -/
theorem vacated_vacate (n : Nat) (s : State) : Vacated n s (vacate n s) := by
  have hesc : ∀ m, (vacate n s).esc m = (s.setEsc n { s.esc n with failed := [] }).esc m := fun m => by rw [vacate_eq]; rfl
  have haccount : ∀ m, (vacate n s).account m = (s.setAccount n { s.account n with lastIncomplete := false }).account m := fun m => by
    rw [vacate_eq]
    rfl
  refine ⟨?frame, ?record, fun m hm => ?others, ?set, fun m hm => ?sets, ?esc, fun m hm => ?escs, ?account, fun m hm => ?accounts⟩
  case frame =>
    rw [vacate_eq]
    have hfilter : (s.nu.queue.filter fun x => x != n) = s.nu.queue.filter fun x => decide (x ≠ n) :=
      List.filter_congr fun x _ => bne_eq_decide_ne x n
    rw [hfilter]
    rfl
  case record => exact (vacate_tenant n n s).trans (State.tenant_setTenant_same s n _)
  case others => exact (vacate_tenant n m s).trans (State.tenant_setTenant_other s _ hm.symm)
  case set => exact (vacate_causes n n s).trans (State.causes_setCauses_same s n _)
  case sets => exact (vacate_causes n m s).trans (causes_setCauses_other s _ hm)
  case esc => exact (hesc n).trans (State.esc_setEsc_same s n _)
  case escs => exact (hesc m).trans (esc_setEsc_of_ne s _ hm)
  case account => exact (haccount n).trans (State.account_setAccount_same s n _)
  case accounts => exact (haccount m).trans (account_setAccount_other s _ hm)

theorem slotStep_of_empty (h : (s.tenant n).slot = .empty) :
    slotStep n c s = if (s.tenant n).state = .closing then vacate n s else s := by rw [slotStep, h]

theorem slotStep_of_restore {tag : Byte} (h : (s.tenant n).slot = .restoreOutlets tag) : slotStep n c s = s := by rw [slotStep, h]

theorem slotStep_of_full (hfull : 32 ≤ s.tp.completions.length) (h : (s.tenant n).slot ≠ .empty) : slotStep n c s = s := by
  have hroom : ¬ s.completionRoom = true := mt (completionRoom_iff s).1 (Nat.not_lt.2 hfull)
  unfold slotStep
  cases hslot : (s.tenant n).slot with
  | empty => exact absurd hslot h
  | statement tag clearPeak => exact if_neg hroom
  | closeTenant tag => exact if_neg hroom
  | restoreOutlets tag => rfl
  | owed order tag outcome tallies => exact if_neg hroom

theorem statementOf_eq {k : Contract} (hk : (s.tenant n).contract = some k) :
    statementOf n c s = statementUnder n c k (s.tenant n) (s.esc n).stage := by
  unfold statementOf
  dsimp only
  rw [hk]
  rfl

theorem slotStep_of_statement {tag : Byte} {cp : Bool} {k : Contract} (hroom : s.tp.completions.length < 32)
    (h : (s.tenant n).slot = .statement tag cp) (hk : (s.tenant n).contract = some k) :
    slotStep n c s =
      onTenant n (fun r => { r with slot := .empty, peak := if cp then none else r.peak }) (placed
        { code := 0x44, tag := tag, outcome := .stated, body := .statement (statementUnder n c k (s.tenant n) (s.esc n).stage) } s) := by
  rw [slotStep, h, ← statementOf_eq hk, ← placeCompletion_of_room hroom]
  exact if_pos ((completionRoom_iff s).2 hroom)

theorem slotStep_of_close {tag : Byte} {k : Contract} (hroom : s.tp.completions.length < 32)
    (h : (s.tenant n).slot = .closeTenant tag) (hk : (s.tenant n).contract = some k) :
    slotStep n c s = vacate n (placed
      { code := 0x43, tag := tag, outcome := .closed, body := .statement (statementUnder n c k (s.tenant n) (s.esc n).stage) } s) := by
  rw [slotStep, h, ← statementOf_eq hk, ← placeCompletion_of_room hroom]
  exact if_pos ((completionRoom_iff s).2 hroom)

theorem slotStep_of_owed {order : LongOrder} {tag : Byte} {outcome : CompletionOutcome} {tallies : Option Tallies}
    (hroom : s.tp.completions.length < 32) (h : (s.tenant n).slot = .owed order tag outcome tallies) :
    slotStep n c s = setSlot n .empty (placed (owedCompletion n order tag outcome tallies) s) := by
  rw [slotStep, h, ← placeCompletion_of_room hroom]
  exact if_pos ((completionRoom_iff s).2 hroom)

theorem placeSummary_of_room (r : Summary) (h : s.tp.summaries.length < 32) :
    placeSummary r s = { s with tp := { s.tp with summaries := s.tp.summaries ++ [r] } } := if_pos h

theorem placeSummary_of_full (r : Summary) (h : 32 ≤ s.tp.summaries.length) : placeSummary r s = latchUnit .summaryLost s :=
  if_neg (Nat.not_lt.2 h)

theorem summaryStep_of_asked {k : Contract} (x : IntervalTotal) (h : k.limits.summary = true) :
    summaryStep k x s = placeSummary (summaryOf x s) s := if_pos h

theorem summaryStep_of_not_asked {k : Contract} (x : IntervalTotal) (h : k.limits.summary = false) : summaryStep k x s = s :=
  if_neg (by rw [h]; exact Bool.false_ne_true)

end Slot

/-- Settles O43: TL's checks of the two orders, then steps 7 and 8 of a settle slot by slot. -/
theorem longOrdersOfTheLedger : Obligations.LongOrdersOfTheLedger := by
  refine ⟨fun tag n cp s hown => ?statement, fun tag n s hown => ?close, fun k x s r hr => ?summary, fun n c s => ?slot⟩
  case statement =>
    have hexec : exec (.statement tag n cp) s = .next (takeOrder (.statement tag n cp) tag 0x44 (ownStatement tag n cp) s) := rfl
    refine ⟨fun hbad => ?range, fun hr hcp hl => ?lock, fun hr hcp hl => ⟨fun hst => ?state, fun hst hslot => ?busy, fun hst hslot => ?taken⟩⟩
    case range => exact refused_of_owner hexec hown (ownStatement_of_out_of_range hbad)
    case lock => exact refused_of_owner hexec hown ((ownStatement_of_range hr hcp.le).trans (if_pos ⟨hcp, hl⟩))
    all_goals have howner := ownStatement_of_unlocked (tag := tag) hr hcp hl
    case state => exact refused_of_owner hexec hown (howner.trans (if_pos hst))
    all_goals rw [if_neg (not_vacant_or_closing hst)] at howner
    case busy => exact refused_of_owner hexec hown (howner.trans (if_pos hslot))
    case taken =>
      exact ⟨_, oneTenant_setTenant s n _, exec_order_of_atOwner hexec hown (howner.trans (if_neg fun h => h hslot))⟩
  case close =>
    have hexec : exec (.closeTenant tag n) s = .next (takeOrder (.closeTenant tag n) tag 0x43 (ownCloseTenant tag n) s) := rfl
    refine ⟨fun hbad => ?range, fun hr hl => ?lock, fun hr hl => ⟨fun hst => ?state, fun hst hnone => ⟨fun hslot => ?busy, fun hslot => ?taken⟩⟩⟩
    case range => exact refused_of_owner hexec hown (ownCloseTenant_of_not_tenant hbad)
    case lock => exact refused_of_owner hexec hown (ownCloseTenant_of_locked hr hl)
    all_goals have howner := ownCloseTenant_of_unlocked (tag := tag) hr hl
    case state => exact refused_of_owner hexec hown (howner.trans (if_pos (hst.imp_right (Or.imp_right (anyOutletNames_iff s n).2))))
    all_goals rw [if_neg (not_vacant_closing_or_named hst hnone)] at howner
    case busy => exact refused_of_owner hexec hown (howner.trans (if_pos hslot))
    case taken =>
      exact ⟨_, _, oneTenant_setTenant s n _, stageReturned_stageToIdle n _,
        exec_order_of_atOwner hexec hown (howner.trans (if_neg fun h => h hslot))⟩
  case summary =>
    have hsummary : r = summaryOf x s := hr
    exact ⟨summaryStep_of_not_asked x,
      fun hask hroom => by rw [summaryStep_of_asked x hask, placeSummary_of_room _ hroom, hsummary],
      fun hask hfull => by rw [summaryStep_of_asked x hask, placeSummary_of_full _ hfull]⟩
  case slot =>
    refine ⟨fun hslot hst => ?stays, fun hslot hst => ?vacates, fun tag hslot => slotStep_of_restore hslot,
      fun hfull hslot => slotStep_of_full hfull hslot, fun tag cp k hroom hslot hk => ?stated, fun tag k hroom hslot hk => ?closed,
      fun order tag outcome tallies hroom hslot => ?owed⟩
    case stays => exact (slotStep_of_empty hslot).trans (if_neg hst)
    case vacates =>
      rw [slotStep_of_empty hslot, if_pos hst]
      exact vacated_vacate n s
    case stated =>
      rw [slotStep_of_statement hroom hslot hk]
      exact oneTenant_setTenant (placed _ s) n _
    case closed =>
      rw [slotStep_of_close hroom hslot hk]
      exact vacated_vacate n _
    case owed =>
      rw [slotStep_of_owed hroom hslot]
      cases order <;> exact oneTenant_setTenant (placed _ s) n _

end Sys2Proof.Stated
end

section

/-! ### RESET-TENANT -/

namespace Sys2Proof.Stated

open Sys2Proof.Machine

/-! ### The record of a reset tenant -/

/-- The state of a tenant once a close has been undone. -/
def reopenedState (r : Tenant) : TenantState := if r.state = .closing then r.stateBeforeClose.getD .active else r.state

theorem reopen_eq (r : Tenant) : reopen r = { r with state := reopenedState r } := by
  unfold reopen reopenedState
  split_ifs <;> rfl

/-- The record that RESET-TENANT leaves, its slot apart. -/
def resetRecord (r : Tenant) : Tenant := emptyWindow (closeMachines .reset { r with state := reopenedState r })

theorem resetRecord_eq (r : Tenant) : emptyWindow (closeMachines .reset (reopen r)) = resetRecord r := by
  rw [reopen_eq]
  rfl

section Reset

variable {n : Nat} {s : State}

/-- Nothing but MLC, the tenant records, ES and TP is written. -/
def WritesLedger (s t : State) : Prop := t = { s with mlc := t.mlc, tl := { s.tl with tenants := t.tl.tenants }, es := t.es, tp := t.tp }

theorem WritesLedger.trans {t u : State} (h : WritesLedger s t) (g : WritesLedger t u) : WritesLedger s u := by
  unfold WritesLedger at *
  rw [g, h]

theorem writesLedger_of_count {t : State} (h : t = { s with mlc := t.mlc, tl := t.tl, es := t.es, tp := t.tp })
    (hcount : t.tl.count = s.tl.count) : WritesLedger s t := by
  have htl : t.tl = { s.tl with tenants := t.tl.tenants } := congrArg (Ledger.mk t.tl.tenants) hcount
  exact h.trans (congrArg (fun l => { s with mlc := t.mlc, tl := l, es := t.es, tp := t.tp }) htl)

theorem writesLedger_setTenant (n : Nat) (r : Tenant) (s : State) : WritesLedger s (s.setTenant n r) := rfl

theorem writesLedger_setEsc (n : Nat) (e : Escalation) (s : State) : WritesLedger s (s.setEsc n e) := rfl

theorem writesLedger_stageToIdle (n : Nat) (s : State) : WritesLedger s (stageToIdle n s) := by
  obtain ⟨hframe, -, -, -, -, hcount, -⟩ := stageReturned_stageToIdle n s
  exact writesLedger_of_count hframe hcount

/-! ### The slot of the order -/

/-- The tenant and its record once the order in its slot has been ended. -/
def windowEmptied (n : Nat) (u : State) : State := u.setTenant n (resetRecord (u.tenant n))

theorem resetTenant_eq (n : Nat) (s : State) :
    resetTenant n s =
      (stageToIdle n (windowEmptied n (resetSlot n s))).setEsc n
        { (stageToIdle n (windowEmptied n (resetSlot n s))).esc n with failed := [] } := by
  have hrecord : (onTenant n (fun r => emptyWindow (closeMachines .reset (reopen r))) (resetSlot n s)) =
      windowEmptied n (resetSlot n s) := congrArg (fun r => (resetSlot n s).setTenant n r) (resetRecord_eq _)
  rw [resetTenant, hrecord]

theorem resetSlot_of_none (h : (s.tenant n).slot = .empty ∨ ∃ o tg oc k, (s.tenant n).slot = .owed o tg oc k) : resetSlot n s = s := by
  unfold resetSlot
  rcases h with h | ⟨o, tg, oc, k, h⟩ <;> rw [h]

theorem resetSlot_of_restore {tag : Byte} (h : (s.tenant n).slot = .restoreOutlets tag) : resetSlot n s = stageToIdle n s := by
  rw [resetSlot, h]

theorem abandonOrder_of_room (order : LongOrder) (tag : Byte) (hroom : s.tp.completions.length < 32) :
    abandonOrder n order tag s = setSlot n .empty (placed (owedCompletion n order tag .abandoned none) s) := by
  rw [abandonOrder, if_pos ((completionRoom_iff s).2 hroom), placeCompletion_of_room hroom]

theorem abandonOrder_of_full (order : LongOrder) (tag : Byte) (hfull : 32 ≤ s.tp.completions.length) :
    abandonOrder n order tag s = setSlot n (.owed order tag .abandoned none) s :=
  if_neg (mt (completionRoom_iff s).1 (Nat.not_lt.2 hfull))

/-- An order in the slot that the reset abandons itself, with the code of its completion. -/
def Abandoned (x : LongSlot) (tg : Byte) (code : Nat) (order : LongOrder) : Prop :=
  (∃ cp, x = .statement tg cp) ∧ code = 0x44 ∧ order = .statement ∨ x = .closeTenant tg ∧ code = 0x43 ∧ order = .closeTenant

theorem resetSlot_of_abandoned {tg : Byte} {code : Nat} {order : LongOrder} (h : Abandoned (s.tenant n).slot tg code order) :
    resetSlot n s = abandonOrder n order tg s ∧
      owedCompletion n order tg .abandoned none = { code := code, tag := tg, outcome := .abandoned, body := .tenant n } := by
  unfold resetSlot
  rcases h with ⟨⟨cp, h⟩, rfl, rfl⟩ | ⟨h, rfl, rfl⟩ <;> rw [h] <;> exact ⟨rfl, rfl⟩

/-- What is left to the stage when the slot holds no restore: the slot and TP are written, nothing else. -/
structure SlotEnded (n : Nat) (s u : State) : Prop where
  frame : u = { s with tl := { s.tl with tenants := u.tl.tenants }, tp := u.tp }
  record : u.tenant n = { s.tenant n with slot := (u.tenant n).slot }
  others : ∀ m, m ≠ n → u.tenant m = s.tenant m
  noRestore : ∀ tag, (u.tenant n).slot ≠ .restoreOutlets tag

theorem slotEnded_setSlot {x : LongSlot} {t : State} (ht : t = { s with tp := t.tp }) (hx : ∀ tag, x ≠ .restoreOutlets tag) :
    SlotEnded n s (setSlot n x t) := by
  have htenant : ∀ m, t.tenant m = s.tenant m := fun m => by rw [ht]; rfl
  have hsame : (setSlot n x t).tenant n = { t.tenant n with slot := x } := State.tenant_setTenant_same t n _
  refine ⟨?_, ?_, fun m hm => (State.tenant_setTenant_other t _ hm.symm).trans (htenant m), fun tag => ?_⟩
  · unfold setSlot
    rw [ht]
    rfl
  · rw [hsame, htenant]
  · rw [hsame]
    exact hx tag

theorem slotEnded_resetSlot (h : ∀ tag, (s.tenant n).slot ≠ .restoreOutlets tag) : SlotEnded n s (resetSlot n s) := by
  have habandon : ∀ order tag, SlotEnded n s (abandonOrder n order tag s) := fun order tag => by
    rcases Nat.lt_or_ge s.tp.completions.length 32 with hroom | hfull
    · rw [abandonOrder_of_room order tag hroom]
      exact slotEnded_setSlot rfl nofun
    · rw [abandonOrder_of_full order tag hfull]
      exact slotEnded_setSlot rfl nofun
  unfold resetSlot
  split
  · exact habandon _ _
  · exact habandon _ _
  · next tag hslot => exact absurd hslot (h tag)
  · exact ⟨rfl, rfl, fun _ _ => rfl, h⟩

/-! ### The stage -/

theorem stageToIdle_of_no_restore (h : ∀ tag, (s.tenant n).slot ≠ .restoreOutlets tag) :
    stageToIdle n s = { s with mlc := (stageToIdle n s).mlc, es := (stageToIdle n s).es } := by
  cases hstage : (s.esc n).stage with
  | idle => rw [stageToIdle_of_idle hstage]
  | armed => rw [stageToIdle_of_armed hstage]; rfl
  | shedding => rw [stageToIdle_of_shedding hstage]; rfl
  | shedHold => rw [stageToIdle_of_shedHold hstage]; rfl
  | restoring => rw [stageToIdle_of_restoring hstage, abandonRestore_of_other h]; rfl

theorem abandonRestore_mlc (n : Nat) (s : State) : (abandonRestore n s).mlc = s.mlc := by
  by_cases hother : ∀ tag, (s.tenant n).slot ≠ .restoreOutlets tag
  case pos => rw [abandonRestore_of_other hother]; rfl
  case neg =>
    push Not at hother
    obtain ⟨tag, hslot⟩ := hother
    obtain ⟨-, -, hmlc, -, -⟩ := abandonRestore_spec hslot
    exact hmlc

theorem stageToIdle_mlc (h : (s.esc n).stage ≠ .shedding) : (stageToIdle n s).mlc = s.mlc := by
  cases hstage : (s.esc n).stage with
  | idle => rw [stageToIdle_of_idle hstage]
  | armed => rw [stageToIdle_of_armed hstage]; rfl
  | shedding => exact absurd hstage h
  | shedHold => rw [stageToIdle_of_shedHold hstage]; rfl
  | restoring => rw [stageToIdle_of_restoring hstage, abandonRestore_mlc]

theorem stageToIdle_of_shedding_spec (h : (s.esc n).stage = .shedding) :
    ((stageToIdle n s).esc n).awaiting = none ∧ OffWithdrawn n s.mlc (stageToIdle n s).mlc := by
  obtain ⟨-, -, -, -, -, -, -, -, -, hshedding, -, -⟩ := stageReturned_stageToIdle n s
  obtain ⟨-, hawaiting, hqueue⟩ := hshedding h
  exact ⟨hawaiting, hqueue⟩

/-- What RESET-TENANT leaves of a tenant, its failed set apart; the slot and TP are told elsewhere. -/
structure TenantReset (n : Nat) (s v : State) : Prop where
  frame : WritesLedger s v
  record : v.tenant n = { resetRecord (s.tenant n) with slot := (v.tenant n).slot }
  others : ∀ m, m ≠ n → v.tenant m = s.tenant m ∧ v.esc m = s.esc m
  stage : (v.esc n).stage = .idle
  shedOrder : (v.esc n).shedOrder = (s.esc n).shedOrder
  mlc : (s.esc n).stage ≠ .shedding → v.mlc = s.mlc
  withdrawn : (s.esc n).stage = .shedding → (v.esc n).awaiting = none ∧ OffWithdrawn n s.mlc v.mlc

theorem resetRecord_of_slot {r r' : Tenant} (h : r' = { r with slot := r'.slot }) :
    resetRecord r' = { resetRecord r with slot := r'.slot } := by
  rw [h]
  rfl

/-- With a restore in the slot the stage is returned to IDLE with its order, before the window is emptied. -/
theorem tenantReset_of_restore {tag : Byte} (h : (s.tenant n).slot = .restoreOutlets tag) :
    stageToIdle n (windowEmptied n (resetSlot n s)) = windowEmptied n (stageToIdle n s) ∧
      TenantReset n s (windowEmptied n (stageToIdle n s)) := by
  obtain ⟨-, hstage, horder, -, hothers, -, hrecord, -⟩ := stageReturned_stageToIdle n s
  refine ⟨?same, ?reset⟩
  case same =>
    rw [resetSlot_of_restore h]
    exact stageToIdle_of_idle hstage
  case reset =>
    have hsame : (windowEmptied n (stageToIdle n s)).tenant n = resetRecord ((stageToIdle n s).tenant n) :=
      State.tenant_setTenant_same _ n _
    refine ⟨(writesLedger_stageToIdle n s).trans (writesLedger_setTenant n _ _), ?_, fun m hm => ⟨?_, (hothers m hm).1⟩, hstage, horder,
      stageToIdle_mlc, stageToIdle_of_shedding_spec⟩
    · rw [hsame]
      exact resetRecord_of_slot hrecord
    · exact (State.tenant_setTenant_other _ _ hm.symm).trans (hothers m hm).2

theorem tenantReset_of_no_restore (h : ∀ tag, (s.tenant n).slot ≠ .restoreOutlets tag) :
    TenantReset n s (stageToIdle n (windowEmptied n (resetSlot n s))) ∧
      ((stageToIdle n (windowEmptied n (resetSlot n s))).tenant n).slot = ((resetSlot n s).tenant n).slot ∧
      (stageToIdle n (windowEmptied n (resetSlot n s))).tp = (resetSlot n s).tp := by
  obtain ⟨hslotFrame, hslotRecord, hslotOthers, hslotKept⟩ := slotEnded_resetSlot h
  generalize resetSlot n s = u at *
  have hes : (windowEmptied n u).es = s.es := by rw [hslotFrame]; rfl
  have hmlc : (windowEmptied n u).mlc = s.mlc := by rw [hslotFrame]; rfl
  have hesc : ∀ m, (windowEmptied n u).esc m = s.esc m := fun m => congrArg (fun q : Sequencer => tableGet _ q.tenants m) hes
  have hsame : (windowEmptied n u).tenant n = { resetRecord (s.tenant n) with slot := (u.tenant n).slot } :=
    (State.tenant_setTenant_same u n _).trans (resetRecord_of_slot hslotRecord)
  obtain ⟨-, hstage, horder, -, hothers, -⟩ := stageReturned_stageToIdle n (windowEmptied n u)
  have hidle := stageToIdle_of_no_restore (n := n) (s := windowEmptied n u) fun tag => by rw [hsame]; exact hslotKept tag
  have htenant : ∀ m, (stageToIdle n (windowEmptied n u)).tenant m = (windowEmptied n u).tenant m := fun m => by rw [hidle]; rfl
  have hslotWrites : WritesLedger s u := by
    unfold WritesLedger
    rw [hslotFrame]
  have hframe : WritesLedger s (stageToIdle n (windowEmptied n u)) :=
    (hslotWrites.trans (writesLedger_setTenant n _ u)).trans (writesLedger_stageToIdle n _)
  refine ⟨⟨hframe, ?record, fun m hm => ⟨?other, (hothers m hm).1.trans (hesc m)⟩, hstage, horder.trans (by rw [hesc]), fun hst => ?mlc,
    fun hst => ?withdrawn⟩, ?slot, ?tp⟩
  case record => rw [htenant, hsame]
  case other =>
    have hkept : (windowEmptied n u).tenant m = u.tenant m := State.tenant_setTenant_other u _ hm.symm
    rw [htenant, hkept, hslotOthers m hm]
  case mlc => rw [stageToIdle_mlc (by rwa [hesc]), hmlc]
  case withdrawn =>
    obtain ⟨hawaiting, hqueue⟩ := stageToIdle_of_shedding_spec (n := n) (s := windowEmptied n u) (by rwa [hesc])
    exact ⟨hawaiting, by rwa [hmlc] at hqueue⟩
  case slot => rw [htenant, hsame]
  case tp =>
    rw [hidle]
    rfl

/-! ### The order -/

theorem ownResetTenant_of_not_tenant (h : ¬ IsTenant n) : ownResetTenant n s = (s, .plain .invalidParameter) :=
  if_pos ((validTenant_eq_false_iff n).2 h)

theorem ownResetTenant_of_locked (h : IsTenant n) (hl : GroupLocked s n) : ownResetTenant n s = (s, .plain .locked) :=
  (if_neg fun hv => (validTenant_eq_false_iff n).1 hv h).trans (if_pos hl)

theorem ownResetTenant_of_unlocked (h : IsTenant n) (hl : ¬ GroupLocked s n) :
    ownResetTenant n s = if (s.tenant n).state = .vacant then (s, .plain .incorrectState) else (resetTenant n s, .done []) :=
  (if_neg fun hv => (validTenant_eq_false_iff n).1 hv h).trans (if_neg hl)

/-- The completion that the reset owes for a STATEMENT or a CLOSE-TENANT, placed or left in the slot. -/
theorem resetSlot_spec {tg : Byte} {code : Nat} {order : LongOrder} (h : Abandoned (s.tenant n).slot tg code order) :
    (s.tp.completions.length < 32 → ((resetSlot n s).tenant n).slot = .empty ∧
      (resetSlot n s).tp = { s.tp with
        completions := s.tp.completions ++ [{ code := code, tag := tg, outcome := .abandoned, body := .tenant n }] }) ∧
    (32 ≤ s.tp.completions.length →
      ((resetSlot n s).tenant n).slot = .owed order tg .abandoned none ∧ (resetSlot n s).tp = s.tp) := by
  obtain ⟨hslot, hcompletion⟩ := resetSlot_of_abandoned h
  rw [hslot]
  refine ⟨fun hroom => ?_, fun hfull => ?_⟩
  · rw [abandonOrder_of_room order tg hroom, hcompletion]
    exact ⟨congrArg Tenant.slot (State.tenant_setTenant_same _ n _), rfl⟩
  · rw [abandonOrder_of_full order tg hfull]
    exact ⟨congrArg Tenant.slot (State.tenant_setTenant_same _ n _), rfl⟩

/-- The reset with everything the statement says of it but the checks. -/
theorem resetTenant_spec (n : Nat) (s : State) : ∃ v,
    TenantReset n s v ∧ resetTenant n s = v.setEsc n { v.esc n with failed := [] } ∧
      ((∀ tag, (s.tenant n).slot ≠ .restoreOutlets tag) →
        (v.tenant n).slot = ((resetSlot n s).tenant n).slot ∧ v.tp = (resetSlot n s).tp) ∧
      (∀ tag, (s.tenant n).slot = .restoreOutlets tag →
        (v.tenant n).slot = ((stageToIdle n s).tenant n).slot ∧ v.tp = (stageToIdle n s).tp) := by
  refine ⟨_, ?_, resetTenant_eq n s, fun h => ?_, fun tag h => ?_⟩
  · by_cases h : ∀ tag, (s.tenant n).slot ≠ .restoreOutlets tag
    case pos =>
      obtain ⟨hreset, -, -⟩ := tenantReset_of_no_restore h
      exact hreset
    case neg =>
      push Not at h
      obtain ⟨tag, hslot⟩ := h
      obtain ⟨hsame, hreset⟩ := tenantReset_of_restore hslot
      rwa [hsame]
  · obtain ⟨-, hslot, htp⟩ := tenantReset_of_no_restore h
    exact ⟨hslot, htp⟩
  · obtain ⟨hsame, -⟩ := tenantReset_of_restore h
    have hrecord : (windowEmptied n (stageToIdle n s)).tenant n = resetRecord ((stageToIdle n s).tenant n) :=
      State.tenant_setTenant_same _ n _
    rw [hsame, hrecord]
    exact ⟨rfl, rfl⟩

end Reset

theorem reopenedState_of_ne {r : Tenant} (h : r.state ≠ .closing) : reopenedState r = r.state := if_neg h

theorem reopenedState_of_closing {r : Tenant} {b : TenantState} (h : r.state = .closing) (hb : r.stateBeforeClose = some b) :
    reopenedState r = b := by
  rw [reopenedState, if_pos h, hb]
  rfl

/-- Settles O44: TL's checks of RESET-TENANT, then the slot, the record and the stage in the order of the reset. -/
theorem resetTenantEmptiesTheWindow : Obligations.ResetTenantEmptiesTheWindow := by
  intro tag n s hown
  have hexec : exec (.resetTenant tag n) s = .next (takeOrder (.resetTenant tag n) tag 0x45 (ownResetTenant n) s) := rfl
  refine ⟨fun hbad => ?range, fun hr hl => ?lock, fun hr hl hst => ?state, fun hr hl hst => ?done⟩
  case range => exact refused_of_owner hexec hown (ownResetTenant_of_not_tenant hbad)
  case lock => exact refused_of_owner hexec hown (ownResetTenant_of_locked hr hl)
  case state => exact refused_of_owner hexec hown ((ownResetTenant_of_unlocked hr hl).trans (if_pos hst))
  case done =>
    have howner := (ownResetTenant_of_unlocked hr hl).trans (if_neg hst)
    obtain ⟨v, ⟨hframe, hrecord, hothers, hstage, horder, hmlc, hwithdrawn⟩, hreset, hslot, hrestore⟩ := resetTenant_spec n s
    rw [hreset] at howner
    have hesc := State.esc_setEsc_same v n { v.esc n with failed := [] }
    refine ⟨reopenedState (s.tenant n), closeMachines .reset { s.tenant n with state := reopenedState (s.tenant n) },
      v.setEsc n { v.esc n with failed := [] }, reopenedState_of_ne, fun b hc hb => reopenedState_of_closing hc hb, machinesClosed_closeMachines .reset _, hrecord,
      hframe.trans (writesLedger_setEsc n _ v), fun m hm => ?others, by rw [hesc]; exact hstage, by rw [hesc], by rw [hesc]; exact horder,
      hmlc, fun hst => ?withdrawn, fun hkept => ?kept, fun tg code order habandoned => ?abandoned, fun tg hsl _ => ?restored,
      exec_order_of_atOwner hexec hown howner⟩
    case others =>
      obtain ⟨htenant, hescOther⟩ := hothers m hm
      exact ⟨htenant, (esc_setEsc_of_ne v _ hm).trans hescOther⟩
    case withdrawn =>
      obtain ⟨hawaiting, hqueue⟩ := hwithdrawn hst
      exact ⟨by rw [hesc]; exact hawaiting, hqueue⟩
    case kept =>
      have hnone : ∀ tag, (s.tenant n).slot ≠ .restoreOutlets tag := by rcases hkept with h | ⟨o, tg, oc, k, h⟩ <;> rw [h] <;> nofun
      have hsame := hslot hnone
      rwa [resetSlot_of_none hkept] at hsame
    case abandoned =>
      have hnone : ∀ tag, (s.tenant n).slot ≠ .restoreOutlets tag := by
        rcases habandoned with ⟨⟨cp, h⟩, -, -⟩ | ⟨h, -, -⟩ <;> rw [h] <;> nofun
      obtain ⟨hslotEq, htpEq⟩ := hslot hnone
      have hspec := resetSlot_spec habandoned
      rwa [← hslotEq, ← htpEq] at hspec
    case restored => exact ⟨_, stageReturned_stageToIdle n s, hrestore tg hsl⟩

end Sys2Proof.Stated
end

section

/-! ### RESTORE-OUTLETS, the shed list, and the latch -/

namespace Sys2Proof.Stated

open Sys2Proof.Machine

/-! ### RESTORE-OUTLETS -/

section Restore

variable {tag : Byte} {n : Nat} {s : State}

theorem ownRestoreOutlets_of_not_tenant (h : ¬ IsTenant n) : ownRestoreOutlets tag n s = (s, .plain .invalidParameter) :=
  if_pos ((validTenant_eq_false_iff n).2 h)

theorem ownRestoreOutlets_of_locked (h : IsTenant n) (hl : GroupLocked s n) : ownRestoreOutlets tag n s = (s, .plain .locked) :=
  (if_neg fun hv => (validTenant_eq_false_iff n).1 hv h).trans (if_pos hl)

theorem ownRestoreOutlets_of_unlocked (h : IsTenant n) (hl : ¬ GroupLocked s n) :
    ownRestoreOutlets tag n s =
      if (s.tenant n).state = .vacant ∨ (s.tenant n).state = .closing ∨ (s.esc n).stage = .armed ∨ (s.esc n).stage = .shedding then
        (s, .plain .incorrectState)
      else if (s.tenant n).slot ≠ .empty then (s, .plain .busy)
      else if (s.esc n).shedOrder = [] then (restoreNothing n s, .done [])
      else (beginRestore n tag s, .plain .accepted) :=
  (if_neg fun hv => (validTenant_eq_false_iff n).1 hv h).trans (if_neg hl)

end Restore

/-- Settles O45: ES's checks of RESTORE-OUTLETS in their order, then the shed order decides. -/
theorem restoreOutletsBeginsARestore : Obligations.RestoreOutletsBeginsARestore := by
  intro tag n s hown
  have hexec : exec (.restoreOutlets tag n) s = .next (takeOrder (.restoreOutlets tag n) tag 0x50 (ownRestoreOutlets tag n) s) := rfl
  refine ⟨fun hbad => ?range, fun hr hl => ?lock, fun hr hl => ⟨fun hst => ?state, fun hst harmed hshed => ?accepted⟩⟩
  case range => exact refused_of_owner hexec hown (ownRestoreOutlets_of_not_tenant hbad)
  case lock => exact refused_of_owner hexec hown (ownRestoreOutlets_of_locked hr hl)
  case state => exact refused_of_owner hexec hown ((ownRestoreOutlets_of_unlocked hr hl).trans (if_pos hst))
  case accepted =>
    have hfit : ¬ ((s.tenant n).state = .vacant ∨ (s.tenant n).state = .closing ∨ (s.esc n).stage = .armed ∨
        (s.esc n).stage = .shedding) := by
      rintro (hv | hc | ha | hs)
      · exact not_vacant_or_closing hst (.inl hv)
      · exact not_vacant_or_closing hst (.inr hc)
      · exact harmed ha
      · exact hshed hs
    have howner := (ownRestoreOutlets_of_unlocked (tag := tag) hr hl).trans (if_neg hfit)
    refine ⟨fun hslot => ?busy, fun hslot hnone => ?nothing, fun hslot hsome => ?restore⟩
    case busy => exact refused_of_owner hexec hown (howner.trans (if_pos hslot))
    all_goals rw [if_neg fun h => h hslot] at howner
    case nothing => exact ⟨_, oneEsc_setEsc s n _, exec_order_of_atOwner hexec hown (howner.trans (if_pos hnone))⟩
    case restore =>
      exact ⟨_, _, oneEsc_setEsc s n _, oneTenant_setTenant _ n _, exec_order_of_atOwner hexec hown (howner.trans (if_neg hsome))⟩

/-! ### The shed list -/

theorem shedsFirst_iff (x y : Nat × Outlet) : shedsFirst x y = true ↔ ShedsBefore x y := decide_eq_true_iff

theorem shedsBefore_total (x y : Nat × Outlet) : ShedsBefore x y ∨ ShedsBefore y x := by
  unfold ShedsBefore
  omega

theorem shedsBefore_trans {x y z : Nat × Outlet} (h : ShedsBefore x y) (g : ShedsBefore y z) : ShedsBefore x z := by
  unfold ShedsBefore at *
  omega

theorem inShedList_iff (n : Nat) (o : Outlet) : inShedList n o = true ↔ Sheddable n o := decide_eq_true_iff

theorem insertShed_eq (x : Nat × Outlet) (l : List (Nat × Outlet)) :
    insertShed x l = l.orderedInsert (fun a b => shedsFirst a b = true) x := by
  induction l with
  | nil => rfl
  | cons y rest ih =>
    rw [insertShed, List.orderedInsert_cons, ih]

/-- The shed list is the sheddable outlets of the table, sorted. -/
theorem shedList_eq (n : Nat) (s : State) :
    shedList n s = (s.ot.outlets.filter fun p => inShedList n p.2).insertionSort fun a b => shedsFirst a b = true := by
  unfold shedList
  have hinsert : insertShed = List.orderedInsert fun a b => shedsFirst a b = true := funext fun x => funext (insertShed_eq x)
  rw [hinsert]
  rfl

theorem mem_shedList_iff (n : Nat) (s : State) (x : Nat × Outlet) : x ∈ shedList n s ↔ x ∈ s.ot.outlets ∧ Sheddable n x.2 := by
  rw [shedList_eq, List.mem_insertionSort, List.mem_filter, inShedList_iff]

theorem pairwise_shedList (n : Nat) (s : State) : (shedList n s).Pairwise ShedsBefore := by
  have htotal : Std.Total fun a b => shedsFirst a b = true :=
    ⟨fun a b => by simpa only [shedsFirst_iff] using shedsBefore_total a b⟩
  have htrans : IsTrans (Nat × Outlet) fun a b => shedsFirst a b = true :=
    ⟨fun a b c hab hbc => by simp only [shedsFirst_iff] at *; exact shedsBefore_trans hab hbc⟩
  rw [shedList_eq]
  exact (List.pairwise_insertionSort _ _).imp fun h => (shedsFirst_iff _ _).1 h

/-- Settles O46: the shed list is a sorted list of the sheddable outlets, and the candidate its first fitting one. -/
theorem shedListIsInShedOrder : Obligations.ShedListIsInShedOrder := by
  refine fun n s => ⟨mem_shedList_iff n s, pairwise_shedList n s, ?none, fun key hkey => ?some⟩
  case none =>
    rw [candidate, Option.map_eq_none_iff, List.find?_eq_none]
    simp only [decide_eq_true_eq]
    rfl
  case some =>
    rw [candidate, Option.map_eq_some_iff] at hkey
    obtain ⟨x, hfind, rfl⟩ := hkey
    obtain ⟨hx, before, after, hlist, hbefore⟩ := List.find?_eq_some_iff_append.1 hfind
    obtain ⟨hon, hmark, hfailed⟩ := of_decide_eq_true hx
    refine ⟨before, x, after, hlist, rfl, hon, hmark, hfailed, fun y hy hfit => ?_⟩
    have hnot := hbefore y hy
    rw [Bool.not_eq_true'] at hnot
    exact of_decide_eq_false hnot hfit

/-! ### The latch -/

theorem latch_eq_latchedSet (c : CauseSet) (i : Nat) : c.latch i = latchedSet i c := rfl

theorem queueAfterLatch_eq (source i : Nat) (c : CauseSet) (q : List Nat) :
    queueAfterLatch source c i q = latchedQueue source i c q := by
  unfold queueAfterLatch latchedQueue
  cases hlatched : c.latched.getLsbD i with
  | true => simp
  | false =>
    cases hmask : c.mask.getLsbD i with
    | false => simp
    | true => simp [enqueue, ite_not]

theorem latchTenant_of_vacant {c : TenantCause} {n : Nat} {s : State} (h : (s.tenant n).state = .vacant) : latchTenant c n s = s :=
  if_pos h

theorem latchTenant_of_housed {c : TenantCause} {n : Nat} {s : State} (h : (s.tenant n).state ≠ .vacant) :
    latchTenant c n s =
      { s with
        nu := { (s.setCauses n (latchedSet c.bit (s.causes n))).nu with
          queue := latchedQueue n c.bit (s.causes n) s.nu.queue } } := by
  rw [← queueAfterLatch_eq, ← latch_eq_latchedSet]
  exact if_neg h

/-- Settles O49: the two latches, by what a latch makes of a cause set and of the queue. -/
theorem latchAddsACauseOnce : Obligations.LatchAddsACauseOnce := by
  refine ⟨fun c s => ?unit, fun c n s => ⟨latchTenant_of_vacant, fun h => ?tenant⟩⟩
  case unit =>
    rw [← queueAfterLatch_eq, ← latch_eq_latchedSet]
    rfl
  case tenant =>
    rw [latchTenant_of_housed h]
    exact ⟨rfl, rfl, State.causes_setCauses_same s n _, fun m hm => causes_setCauses_other s _ hm, rfl⟩

end Sys2Proof.Stated
end

section

/-! ### The SHEDDING step -/

namespace Sys2Proof.Stated

open Sys2Proof.Machine

/-! ### Relief -/

theorem getD_feedsOver (m : Option OpenBreach) (side : FeedSet → Bool) (hside : side { a := false, b := false } = false) :
    side ((m.map OpenBreach.feeds).getD { a := false, b := false }) = true ↔ ∃ b, m = some b ∧ side b.feeds = true := by
  cases m with
  | none => simp [hside]
  | some b => simp

/-- A feed is offending when its scope is among the feeds of the open breaches. -/
theorem scopeIn_offending_iff (r : Tenant) (x : HandedFeed) : scopeIn r.offending x.scope = true ↔ Offending r x := by
  have hor : ∀ p : FeedSet → Prop, (∃ b, r.burst.breach = some b ∧ p b.feeds) ∨ (∃ b, r.demand.breach = some b ∧ p b.feeds) ↔
      ∃ b, (r.burst.breach = some b ∨ r.demand.breach = some b) ∧ p b.feeds := fun p => by
    rw [← exists_or]
    exact exists_congr fun b => or_and_right.symm
  unfold Offending Tenant.offending
  cases x.scope with
  | pooled => exact iff_true_intro rfl
  | feedA =>
    rw [← hor fun f => f.a = true, ← getD_feedsOver r.burst.breach FeedSet.a rfl, ← getD_feedsOver r.demand.breach FeedSet.a rfl]
    exact Bool.or_eq_true_iff
  | feedB =>
    rw [← hor fun f => f.b = true, ← getD_feedsOver r.burst.breach FeedSet.b rfl, ← getD_feedsOver r.demand.breach FeedSet.b rfl]
    exact Bool.or_eq_true_iff

theorem reliefFeeds_of_offending {r : Tenant} {handed : List HandedFeed} (h : ∃ x ∈ handed, Offending r x) (x : HandedFeed) :
    x ∈ reliefFeeds r handed ↔ x ∈ handed ∧ Offending r x := by
  obtain ⟨y, hy, hoffending⟩ := h
  have hmem : y ∈ handed.filter fun x => scopeIn r.offending x.scope :=
    List.mem_filter.2 ⟨hy, (scopeIn_offending_iff r y).2 hoffending⟩
  have hfeeds : reliefFeeds r handed = handed.filter fun x => scopeIn r.offending x.scope := if_neg (List.ne_nil_of_mem hmem)
  rw [hfeeds, List.mem_filter, scopeIn_offending_iff]

theorem reliefFeeds_of_none {r : Tenant} {handed : List HandedFeed} (h : ∀ x ∈ handed, ¬ Offending r x) : reliefFeeds r handed = handed :=
  if_pos (List.filter_eq_nil_iff.2 fun x hx hin => h x hx ((scopeIn_offending_iff r x).1 hin))

theorem relieved_iff (n : Nat) (handed : List HandedFeed) (s : State) : relieved (s.tenant n) handed = true ↔ Relieved n handed s := by
  simp only [relieved, Relieved, Bool.and_eq_true, decide_eq_true_eq, List.all_eq_true]

section Shedding

variable {n : Nat} {handed : List HandedFeed} {s : State}

/-! ### What the parts of the step write -/

theorem shedHeld_settleShedding (c : TenantCause) (n : Nat) (s : State) : ShedHeld c n s (settleShedding c n s) := by
  have hstage := State.esc_setEsc_same s n { s.esc n with stage := .shedHold }
  obtain ⟨hframe, hesc, hothers⟩ := leaveShedding_spec n (s.setEsc n { s.esc n with stage := .shedHold })
  have hlatch : settleShedding c n s = { leaveShedding n (setStage n .shedHold s) with nu := (settleShedding c n s).nu } :=
    writesNu_latchTenant c n _
  refine ⟨?frame, ?esc, fun m hm => ?others, ?queue, latchTenant_nu_congr c n rfl rfl⟩
  case frame =>
    rw [hlatch]
    rfl
  case esc => exact (latchTenant_esc c n n _).trans (hesc.trans (by rw [hstage]))
  case others => exact (latchTenant_esc c n m _).trans ((hothers m hm).trans (esc_setEsc_of_ne s _ hm))
  case queue =>
    rw [hlatch]
    exact offWithdrawn_withdrawRequest n s

theorem outletFailed_failOutlet (n : Nat) (a : OutletAddr) (s : State) : OutletFailed n a s (failOutlet n a s) := by
  have hfailed := State.esc_setEsc_same s n
    { s.esc n with failed := if a ∈ (s.esc n).failed then (s.esc n).failed else (s.esc n).failed ++ [a] }
  have hlatch := writesNu_latchTenant .shedFailed n (s.setEsc n
    { s.esc n with failed := if a ∈ (s.esc n).failed then (s.esc n).failed else (s.esc n).failed ++ [a] })
  refine ⟨?frame, ?esc, fun m hm => ?others, latchTenant_nu_congr .shedFailed n rfl rfl⟩
  case frame =>
    unfold failOutlet clearAwaiting
    dsimp only
    rw [hlatch]
    rfl
  case esc =>
    refine (State.esc_setEsc_same _ n _).trans ?_
    rw [latchTenant_esc, hfailed]
  case others => exact (esc_setEsc_of_ne _ _ hm).trans ((latchTenant_esc .shedFailed n m _).trans (esc_setEsc_of_ne s _ hm))

/-! ### The cases of the step -/

theorem sheddingStep_of_relieved (h : Relieved n handed s) : sheddingStep n handed s = settleShedding .shedSettled n s :=
  if_pos ((relieved_iff n handed s).2 h)

theorem sheddingStep_of_not_relieved (h : ¬ Relieved n handed s) :
    sheddingStep n handed s =
      match (s.esc n).awaiting with
      | some w => judgeOff n handed w s
      | none => chooseCandidate n handed s :=
  if_neg (mt (relieved_iff n handed s).1 h)

theorem sheddingStep_of_awaiting {w : Awaiting} (h : ¬ Relieved n handed s) (hw : (s.esc n).awaiting = some w) :
    sheddingStep n handed s = judgeOff n handed w s := by
  rw [sheddingStep_of_not_relieved h, hw]

theorem judgeOff_of_released {w : Awaiting}
    (h : (s.outlet (w.addr.head * 48 + w.addr.outlet)).shedMark = false ∨ (s.outlet (w.addr.head * 48 + w.addr.outlet)).switchState = .off) :
    judgeOff n handed w s = chooseCandidate n handed (s.setEsc n { s.esc n with awaiting := none }) := if_pos h

theorem judgeOff_of_marked {w : Awaiting} (hmark : (s.outlet (w.addr.head * 48 + w.addr.outlet)).shedMark = true)
    (hoff : (s.outlet (w.addr.head * 48 + w.addr.outlet)).switchState ≠ .off) :
    judgeOff n handed w s =
      if w.age + 1 < 3 then s.setEsc n { s.esc n with awaiting := some { w with age := w.age + 1 } }
      else chooseCandidate n handed (failOutlet n w.addr s) := by
  refine if_neg ?_
  rintro (hfalse | hgone)
  · exact absurd (hmark.symm.trans hfalse) (by decide)
  · exact hoff hgone

theorem chooseCandidate_of_exhausted (hfeeds : handed ≠ []) (h : candidate n s = none) :
    chooseCandidate n handed s = settleShedding .shedExhausted n s := by
  rw [chooseCandidate, if_neg hfeeds, h]

theorem chooseCandidate_of_candidate {key : Nat} (hfeeds : handed ≠ []) (h : candidate n s = some key) :
    chooseCandidate n handed s = placeOff n key s := by
  rw [chooseCandidate, if_neg hfeeds, h]

theorem placeOff_of_refused {key : Nat} {e : SwitchEntry} (he : e = { addr := addrOfKey key, direction := .off, tenant := n })
    (h : addAnswer s.mlc.switchQueue e = .refused) : placeOff n key s = s := by
  subst he
  rw [placeOff, h]

theorem placeOff_of_placed {key : Nat} {e : SwitchEntry} (he : e = { addr := addrOfKey key, direction := .off, tenant := n })
    (h : addAnswer s.mlc.switchQueue e ≠ .refused) : placeOff n key s = shedMark n key (addRequest e s) := by
  subst he
  unfold placeOff
  dsimp only
  split
  · next hrefused => exact absurd hrefused h
  · rfl

/-- What the shed mark of an outlet and the three things done with it write. -/
theorem shedMark_spec (n key : Nat) (s : State) :
    shedMark n key s = { s with ot := (shedMark n key s).ot, es := (shedMark n key s).es, tl := (shedMark n key s).tl } ∧
      (shedMark n key s).outlet key = { s.outlet key with shedMark := true } ∧
      (∀ j, j ≠ key → (shedMark n key s).outlet j = s.outlet j) ∧
      (shedMark n key s).esc n =
        { s.esc n with
          shedOrder := (s.esc n).shedOrder ++ [addrOfKey key]
          awaiting := some { addr := addrOfKey key, direction := .off, age := 0 } } ∧
      (∀ m, m ≠ n → (shedMark n key s).esc m = s.esc m ∧ (shedMark n key s).tenant m = s.tenant m) ∧
      (shedMark n key s).tenant n =
        { s.tenant n with burst := (s.tenant n).burst.markShed, demand := (s.tenant n).demand.markShed } :=
  ⟨rfl, State.outlet_setOutlet_same s key _, fun _ hj => State.outlet_setOutlet_other s _ hj.symm, State.esc_setEsc_same s n _,
    fun _ hm => ⟨esc_setEsc_of_ne s _ hm, State.tenant_setTenant_other s _ hm.symm⟩, State.tenant_setTenant_same s n _⟩

end Shedding

/-- Settles O47: the four cases of the step in their order, each by what its part writes. -/
theorem sheddingStepTakesTheFirstCase : Obligations.SheddingStepTakesTheFirstCase := by
  refine ⟨fun r handed => ⟨reliefFeeds_of_offending, reliefFeeds_of_none⟩, fun n handed s => ?step⟩
  refine ⟨fun h => ?relieved, fun w h hw hmark hoff hage => ?waits, fun w h hw hmark hoff hage => ?fails, fun w h hw hgone => ?gone,
    fun h hw => ?nothing, rfl, fun hfeeds hnone => ?exhausted, fun key e hfeeds hkey he => ⟨fun href => ?refused, fun hplaced => ?placed⟩⟩
  case relieved =>
    rw [sheddingStep_of_relieved h]
    exact shedHeld_settleShedding .shedSettled n s
  case waits =>
    rw [sheddingStep_of_awaiting h hw, judgeOff_of_marked hmark hoff, if_pos hage]
    exact oneEsc_setEsc s n _
  case fails =>
    refine ⟨_, outletFailed_failOutlet n w.addr s, ?_⟩
    rw [sheddingStep_of_awaiting h hw, judgeOff_of_marked hmark hoff, if_neg (Nat.not_lt.2 hage)]
  case gone =>
    refine ⟨_, oneEsc_setEsc s n _, ?_⟩
    rw [sheddingStep_of_awaiting h hw, judgeOff_of_released hgone]
  case nothing => rw [sheddingStep_of_not_relieved h, hw]
  case exhausted =>
    rw [chooseCandidate_of_exhausted hfeeds hnone]
    exact shedHeld_settleShedding .shedExhausted n s
  all_goals rw [chooseCandidate_of_candidate hfeeds hkey]
  case refused => exact placeOff_of_refused he href
  case placed =>
    rw [placeOff_of_placed he hplaced]
    obtain ⟨hframe, hsame, hothers, hesc, hrest, htenant⟩ := shedMark_spec n key (addRequest e s)
    subst he
    exact ⟨_, rfl, hframe, hsame, hothers, hesc, hrest, htenant⟩

end Sys2Proof.Stated
end

section

/-! ### The steps of the stages -/

namespace Sys2Proof.Stated

open Sys2Proof.Machine

theorem confirmLimit_eq : Config.confirmLimit = 3 := rfl

section Stages

variable {n : Nat} {handed : List HandedFeed} {s : State}

/-! ### Transitions and arming -/

theorem isTrigger_iff (k : LimitFields) (x : Transition) : isTrigger k x = true ↔ Trigger k x := by
  simp only [isTrigger, Trigger, Bool.and_eq_true, Bool.or_eq_true, decide_eq_true_eq]

theorem takeTransition_of_none {k : LimitFields} {x : Transition}
    (h : ¬ Trigger k x ∨ (s.esc n).stage ≠ .idle ∨ k.action = .noticeOnly) : takeTransition k n s x = s := by
  unfold takeTransition
  split_ifs with htaken
  · obtain ⟨htrigger, hidle⟩ := htaken
    rcases h with hnot | hstage | haction
    · exact absurd ((isTrigger_iff k x).1 htrigger) hnot
    · exact absurd hidle hstage
    · rw [haction]
  · rfl

theorem takeTransition_of_trigger {k : LimitFields} {x : Transition} (h : Trigger k x) (hidle : (s.esc n).stage = .idle) :
    takeTransition k n s x =
      match k.action with
      | .noticeOnly => s
      | .delayedShed => s.setEsc n { s.esc n with stage := .armed, countdown := some (armDelay k.delayCode) }
      | .immediateShed => enterShedding n s :=
  if_pos ⟨(isTrigger_iff k x).2 h, hidle⟩

theorem sheddingEntered_enterShedding (n : Nat) (s : State) : SheddingEntered n s (enterShedding n s) :=
  ⟨_, oneEsc_setEsc s n _, rfl⟩

theorem quiet_iff (n : Nat) (s : State) : (s.tenant n).quiet = true ↔ BothClear n s := decide_eq_true_iff

theorem armedStep_of_clear (h : BothClear n s) : armedStep n handed s = s.setEsc n { s.esc n with stage := .idle, countdown := none } :=
  if_pos ((quiet_iff n s).2 h)

theorem armedStep_of_countdown {c : Nat} (h : ¬ BothClear n s) (hc : (s.esc n).countdown = some c) :
    armedStep n handed s =
      if c ≤ 1 then sheddingStep n handed (enterShedding n s) else s.setEsc n { s.esc n with countdown := some (c - 1) } := by
  rw [armedStep, if_neg (mt (quiet_iff n s).1 h), hc]

/-! ### Holding -/

theorem isOver_iff (n : Nat) (handed : List HandedFeed) (s : State) : isOver (s.tenant n) handed = true ↔ Over n handed s := by
  simp only [isOver, Over, List.any_eq_true, decide_eq_true_eq]

theorem holdStep_of_relapse (h : Over n handed s) (hb : (s.tenant n).demand.state = .breach) :
    holdStep n handed s = sheddingStep n handed (enterShedding n s) :=
  if_pos ⟨(isOver_iff n handed s).2 h, hb⟩

theorem holdStep_of_no_relapse (h : ¬ Over n handed s ∨ (s.tenant n).demand.state ≠ .breach) :
    holdStep n handed s = if (s.tenant n).quiet ∧ (s.esc n).shedOrder = [] then setStage n .idle s else s :=
  if_neg fun hrelapse => h.elim (fun hnot => hnot ((isOver_iff n handed s).1 hrelapse.left)) fun hnot => hnot hrelapse.right

/-! ### Restoring -/

/-- An unmark leaves the cursor where it is. -/
theorem unmarked_unmark (n : Nat) (a : OutletAddr) (tally : Tallies → Tallies) (s : State) :
    Unmarked n a (s.esc n).cursor tally s (unmark n a tally s) :=
  ⟨rfl, State.outlet_setOutlet_same s _ _, fun _ hj => State.outlet_setOutlet_other s _ hj.symm, State.esc_setEsc_same _ n _,
    fun _ hm => esc_setEsc_of_ne _ _ hm⟩

/-- Going on puts the cursor at an entry before it unmarks it. -/
theorem unmarked_unmark_at_cursor (n : Nat) (a : OutletAddr) (tally : Tallies → Tallies) (s : State) :
    Unmarked n a (some a) tally s (unmark n a tally (s.setEsc n { s.esc n with cursor := some a })) := by
  have hcursor := State.esc_setEsc_same s n { s.esc n with cursor := some a }
  obtain ⟨-, hsame, hothers, hesc, hescs⟩ := unmarked_unmark n a tally (s.setEsc n { s.esc n with cursor := some a })
  exact ⟨rfl, hsame, hothers, hesc.trans (by rw [hcursor]), fun m hm => (hescs m hm).trans (esc_setEsc_of_ne s _ hm)⟩

theorem goOnNewest_of_append {before : List OutletAddr} {a : OutletAddr} (h : (s.esc n).shedOrder = before ++ [a]) :
    goOnNewest n s =
      if (s.outlet (a.head * 48 + a.outlet)).switchState = .on then
        goOn n before.reverse (unmark n a (fun k => { k with alreadyOn := k.alreadyOn + 1 }) (s.setEsc n { s.esc n with cursor := some a }))
      else placeOn n a (s.setEsc n { s.esc n with cursor := some a }) := by
  rw [goOnNewest, h, List.reverse_append]
  rfl

theorem filter_ne_append_singleton {before : List OutletAddr} {a : OutletAddr} (h : a ∉ before) :
    (before ++ [a]).filter (fun x => decide (x ≠ a)) = before := by
  rw [List.filter_append, List.filter_eq_self.2 fun x hx => decide_eq_true (ne_of_mem_of_not_mem hx h)]
  simp

theorem goOnNewest_of_on {before : List OutletAddr} {a : OutletAddr} (h : (s.esc n).shedOrder = before ++ [a]) (hnew : a ∉ before)
    (hon : (s.outlet (a.head * 48 + a.outlet)).switchState = .on) :
    goOnNewest n s =
      goOnNewest n (unmark n a (fun k => { k with alreadyOn := k.alreadyOn + 1 }) (s.setEsc n { s.esc n with cursor := some a })) := by
  obtain ⟨-, -, -, hesc, -⟩ := unmarked_unmark_at_cursor n a (fun k => { k with alreadyOn := k.alreadyOn + 1 }) s
  rw [goOnNewest_of_append h, if_pos hon]
  refine Eq.symm ?_
  rw [goOnNewest, hesc, h, filter_ne_append_singleton hnew]

theorem placeOn_of_refused {a : OutletAddr} {e : SwitchEntry} (he : e = { addr := a, direction := .on, tenant := n })
    (h : addAnswer s.mlc.switchQueue e = .refused) : placeOn n a s = s := by
  subst he
  rw [placeOn, h]

theorem placeOn_of_placed {a : OutletAddr} {e : SwitchEntry} (he : e = { addr := a, direction := .on, tenant := n })
    (h : addAnswer s.mlc.switchQueue e ≠ .refused) :
    placeOn n a s = setAwaiting n { addr := a, direction := .on, age := 0 } (addRequest e s) := by
  subst he
  unfold placeOn
  dsimp only
  split
  · next hrefused => exact absurd hrefused h
  · rfl

/-- Two writes of what ES keeps of a tenant: the second alone is left. -/
theorem oneEsc_setEsc_setEsc (n : Nat) (e e' : Escalation) (s : State) : OneEsc n e' s ((s.setEsc n e).setEsc n e') :=
  ⟨rfl, State.esc_setEsc_same _ n e', fun _ hm => (esc_setEsc_of_ne _ e' hm).trans (esc_setEsc_of_ne s e hm)⟩

theorem oneEsc_setAwaiting_addRequest (n : Nat) (a : OutletAddr) (e : SwitchEntry) (s : State) :
    OneEsc n { s.esc n with cursor := some a, awaiting := some { addr := a, direction := .on, age := 0 } } (addRequest e s)
      (setAwaiting n { addr := a, direction := .on, age := 0 } (addRequest e (s.setEsc n { s.esc n with cursor := some a }))) := by
  have hcursor := State.esc_setEsc_same s n { s.esc n with cursor := some a }
  have hwritten := oneEsc_setEsc_setEsc n { s.esc n with cursor := some a }
    { (s.setEsc n { s.esc n with cursor := some a }).esc n with awaiting := some { addr := a, direction := .on, age := 0 } } (addRequest e s)
  rw [hcursor] at hwritten
  unfold setAwaiting
  have hsame : (addRequest e (s.setEsc n { s.esc n with cursor := some a })).esc n = { s.esc n with cursor := some a } := hcursor
  rw [hsame]
  exact hwritten

theorem goOnNewest_of_nil (h : (s.esc n).shedOrder = []) : goOnNewest n s = restoreEnd n s := by
  rw [goOnNewest, h]
  rfl

theorem restoreEnd_of_full {tag : Byte} (hslot : (s.tenant n).slot = .restoreOutlets tag) (hfull : 32 ≤ s.tp.completions.length) :
    restoreEnd n s = s.setEsc n { s.esc n with cursor := none } := by
  rw [restoreEnd, hslot]
  exact if_neg (mt (completionRoom_iff s).1 (Nat.not_lt.2 hfull))

theorem restoreEnd_of_room {tag : Byte} {k : Tallies} (hslot : (s.tenant n).slot = .restoreOutlets tag)
    (hk : (s.esc n).tallies = some k) (hroom : s.tp.completions.length < 32) :
    restoreEnd n s =
      setSlot n .empty ((placed
        { code := 0x50, tag := tag, outcome := if k.atLimit = 0 then .restored else .partialRestore, body := .restore n k } s).setEsc n
          (restoreDropped (s.esc n))) := by
  rw [restoreEnd, hslot, hk]
  exact (if_pos ((completionRoom_iff s).2 hroom)).trans
    (congrArg (fun t => setSlot n .empty (dropRestore n t)) (placeCompletion_of_room hroom _))

theorem restoringStep_of_awaiting {w : Awaiting} (h : (s.esc n).awaiting = some w) : restoringStep n s = judgeOn n w s := by
  rw [restoringStep, h]

theorem restoringStep_of_none (h : (s.esc n).awaiting = none) : restoringStep n s = goOnNewest n s := by rw [restoringStep, h]

theorem judgeOn_of_unmarked {w : Awaiting} (h : (s.outlet (w.addr.head * 48 + w.addr.outlet)).shedMark = false) :
    judgeOn n w s = goOnNewest n (s.setEsc n { s.esc n with awaiting := none }) := if_pos h

theorem judgeOn_of_marked {w : Awaiting} (h : (s.outlet (w.addr.head * 48 + w.addr.outlet)).shedMark = true) :
    judgeOn n w s =
      if (s.outlet (w.addr.head * 48 + w.addr.outlet)).switchState = .on then
        goOnNewest n (unmark n w.addr (fun k => { k with confirmed := k.confirmed + 1 }) s)
      else if w.age + 1 < 3 then s.setEsc n { s.esc n with awaiting := some { w with age := w.age + 1 } }
      else goOnNewest n (unmark n w.addr (fun k => { k with atLimit := k.atLimit + 1 }) s) := by
  refine if_neg fun hfalse => ?_
  exact absurd (h.symm.trans hfalse) (by decide)

/-! ### The step of a settle -/

theorem stageStep_of_stage (n : Nat) (handed : List HandedFeed) (s : State) :
    ((s.esc n).stage = .idle → stageStep n handed s = s) ∧ ((s.esc n).stage = .armed → stageStep n handed s = armedStep n handed s) ∧
      ((s.esc n).stage = .shedding → stageStep n handed s = sheddingStep n handed s) ∧
      ((s.esc n).stage = .shedHold → stageStep n handed s = holdStep n handed s) ∧
      ((s.esc n).stage = .restoring → stageStep n handed s = restoringStep n s) := by
  refine ⟨fun h => ?_, fun h => ?_, fun h => ?_, fun h => ?_, fun h => ?_⟩ <;> rw [stageStep, h]

theorem esActive_of_armed {k : LimitFields} {xs : List Transition} (h : (s.esc n).stage ≠ .armed)
    (ht : ((xs.foldl (takeTransition k n) s).esc n).stage = .armed) : esActive k n xs handed s = xs.foldl (takeTransition k n) s :=
  if_pos ⟨h, ht⟩

theorem esActive_of_not_newly_armed {k : LimitFields} {xs : List Transition}
    (h : (s.esc n).stage = .armed ∨ ((xs.foldl (takeTransition k n) s).esc n).stage ≠ .armed) :
    esActive k n xs handed s = stageStep n handed (xs.foldl (takeTransition k n) s) :=
  if_neg fun hnew => h.elim hnew.left fun hnot => hnot hnew.right

end Stages

end Sys2Proof.Stated
end

section

/-! ### The rows that name what happens in a close -/

namespace Sys2Proof.Stated

open Sys2Proof.Machine

theorem settling_iff (s : State) : s.settling = true ↔ Settling s := by
  unfold State.settling Settling
  rw [decide_eq_true_iff]
  refine and_congr_right fun _ => ⟨fun h => ?_, ?_⟩
  · obtain ⟨⟨c, f⟩, hcf⟩ := Option.ne_none_iff_exists'.1 h
    obtain ⟨rest, hrest⟩ := judgedClose_eq_some_iff.1 hcf
    exact ⟨c, f, rest, hrest⟩
  · rintro ⟨c, f, rest, hrest⟩
    rw [judgedClose_eq_some_iff.2 ⟨rest, hrest⟩]
    exact Option.some_ne_none _

/-- The contract under which a tenant would be settled now. -/
def settleContract (n : Nat) (w : State) : Option Contract :=
  (w.tenant n).contract.map fun l => { l with limits := (w.tenant n).pendingLimits.getD l.limits }

theorem stageEntry_of_contract {w : State} {x : IntervalTotal} {k : Contract} (hv : (w.tenant x.tenant).state ≠ .vacant)
    (hk : settleContract x.tenant w = some k) :
    stageEntry w x = some (stageEntryUnder k x (addLifetime x (applyPending x.tenant w))) := by
  have hc : ((addLifetime x (applyPending x.tenant w)).tenant x.tenant).contract = some k := by
    rw [addLifetime_contract, applyPending_contract]
    exact hk
  unfold stageEntry
  rw [if_neg hv]
  dsimp only
  rw [hc]
  rfl

/-- Where a stage step is reached, the total is of a tenant that is not VACANT, settled under a contract. -/
theorem contract_of_stageEntry {w : State} {x : IntervalTotal} {e : StageEntry} (h : stageEntry w x = some e) :
    (w.tenant x.tenant).state ≠ .vacant ∧ ∃ k, settleContract x.tenant w = some k ∧
      e = stageEntryUnder k x (addLifetime x (applyPending x.tenant w)) := by
  by_cases hv : (w.tenant x.tenant).state = .vacant
  · rw [stageEntry, if_pos hv] at h
    cases h
  · cases hk : settleContract x.tenant w with
    | none =>
      have hc : ((addLifetime x (applyPending x.tenant w)).tenant x.tenant).contract = none := by
        rw [addLifetime_contract, applyPending_contract]
        exact hk
      unfold stageEntry at h
      rw [if_neg hv] at h
      dsimp only at h
      rw [hc] at h
      cases h
    | some k =>
      rw [stageEntry_of_contract hv hk] at h
      exact ⟨hv, k, rfl, (Option.some.inj h).symm⟩

section Entry

variable {k : Contract} {x : IntervalTotal} {y : State}

theorem stageEntryUnder_of_active {a : AllowanceStep} (ha : a = allowanceStep k.window (y.tenant x.tenant) x.feedA x.feedB)
    (h : (y.tenant x.tenant).state = .active) :
    stageEntryUnder k x y =
      { state := (evaluateActive k a.holds x (applyAllowance x.tenant a y)).2.foldl (takeTransition k.limits x.tenant)
          (evaluateActive k a.holds x (applyAllowance x.tenant a y)).1
        handed := handedFeeds k x (feedLimits k a.holds) } := by
  subst ha
  exact if_pos ((applyAllowance_state _ _ y).trans h)

theorem stageEntryUnder_of_passive {a : AllowanceStep} (ha : a = allowanceStep k.window (y.tenant x.tenant) x.feedA x.feedB)
    (h : (y.tenant x.tenant).state ≠ .active) :
    stageEntryUnder k x y =
      { state := (bucketStep false (decide (a.holds = .both)) k x [] (applyAllowance x.tenant a y)).1, handed := [] } := by
  subst ha
  exact if_neg fun hactive => h ((applyAllowance_state _ _ y).symm.trans hactive)

/-- Where the stage step is due, steps 3 to 7 are that step on what part 1 left, then the summary. -/
theorem beforeSlot_of_stageEntryUnder {e : StageEntry} (he : e = stageEntryUnder k x y)
    (hc : (e.state.esc x.tenant).stage = .armed → (e.state.esc x.tenant).countdown = some 1)
    (hi : (e.state.tenant x.tenant).state = .active ∨ (e.state.esc x.tenant).stage = .restoring) :
    beforeSlot k x y = summaryStep k x (stageStep x.tenant e.handed e.state) := by
  have hstate : (e.state.tenant x.tenant).state = (y.tenant x.tenant).state := he ▸ stageEntryUnder_state k x y
  by_cases h : (y.tenant x.tenant).state = .active
  case pos =>
    rw [stageEntryUnder_of_active rfl h] at he
    subst he
    rw [beforeSlot_of_active h, judgeActive]
    exact congrArg (summaryStep k x) (esActive_eq_stageStep _ _ _ _ _ hc)
  case neg =>
    have hrestoring := hi.resolve_left fun hactive => h (hstate.symm.trans hactive)
    rw [stageEntryUnder_of_passive rfl h] at he
    subst he
    obtain ⟨-, -, -, -, hstep⟩ := stageStep_of_stage x.tenant [] (bucketStep false
      (decide ((allowanceStep k.window (y.tenant x.tenant) x.feedA x.feedB).holds = .both)) k x []
      (applyAllowance x.tenant (allowanceStep k.window (y.tenant x.tenant) x.feedA x.feedB) y)).1
    rw [beforeSlot_of_passive h, recordPassive, esPassive, if_pos hrestoring, hstep hrestoring]

end Entry

section Reached

variable {n : Nat} {s u : State} {k : Contract} {x : IntervalTotal} {after : List IntervalTotal} {handed : List HandedFeed}

/-- The stage step reached in the next close, as the model finds it: the total, the settles before it and after it. -/
theorem stageReached_iff :
    StageReached n s k x after handed u ↔
      x.tenant = n ∧ ∃ (c : Period) (f : FeedStates) (rest : List WaitingClose) (before : List IntervalTotal) (w : State),
        s.oae.closes = { period := c, feeds := some f } :: rest ∧
        (closeSteps c f { s with oae := { s.oae with closes := rest } }).2 = before ++ x :: after ∧ (∀ o ∈ before, o.tenant ≠ n) ∧
        w = before.foldl settle (closeSteps c f { s with oae := { s.oae with closes := rest } }).1 ∧
        (w.tenant n).state ≠ .vacant ∧ settleContract n w = some k ∧
        { state := u, handed := handed } = stageEntryUnder k x (addLifetime x (applyPending n w)) := by
  constructor
  · rintro ⟨rfl, c, f, rest, v, w, y, z, before, totals, a, hcloses, rfl, rfl, hsplit, hbefore, hw, hv, hk, rfl, ha, rfl, hactive, hpassive⟩
    refine ⟨rfl, c, f, rest, before, w, hcloses, hsplit, hbefore, hw, hv, hk, ?_⟩
    have hstate := addLifetime_applyPending_state x w
    by_cases h : (w.tenant x.tenant).state = .active
    · rw [stageEntryUnder_of_active ha (hstate.trans h)]
      obtain ⟨rfl, p, q, rfl, rfl, rfl⟩ := hactive h
      rfl
    · rw [stageEntryUnder_of_passive ha fun hy => h (hstate.symm.trans hy)]
      obtain ⟨rfl, rfl⟩ := hpassive h
      rfl
  · rintro ⟨rfl, c, f, rest, before, w, hcloses, hsplit, hbefore, hw, hv, hk, he⟩
    refine ⟨rfl, c, f, rest, _, w, _, _, before, _, _, hcloses, rfl, rfl, hsplit, hbefore, hw, hv, hk, rfl, rfl, rfl, fun h => ?_, fun h => ?_⟩
    · rw [stageEntryUnder_of_active rfl ((addLifetime_applyPending_state x w).trans h), StageEntry.mk.injEq] at he
      obtain ⟨rfl, rfl⟩ := he
      exact ⟨rfl, _, _, rfl, rfl, rfl⟩
    · rw [stageEntryUnder_of_passive rfl fun hy => h ((addLifetime_applyPending_state x w).symm.trans hy), StageEntry.mk.injEq] at he
      obtain ⟨rfl, rfl⟩ := he
      exact ⟨rfl, rfl⟩

theorem closeReaches_of_judged {c : Period} {f : FeedStates} {rest : List WaitingClose}
    (h : s.oae.closes = { period := c, feeds := some f } :: rest) :
    closeReaches n s =
      ((closeSteps c f { s with oae := { s.oae with closes := rest } }).2.find? fun x => decide (x.tenant = n)).bind fun x =>
        stageEntry (((closeSteps c f { s with oae := { s.oae with closes := rest } }).2.takeWhile fun y => decide (y.tenant ≠ n)).foldl settle
          (closeSteps c f { s with oae := { s.oae with closes := rest } }).1) x := by
  have htake : takeClose s = { s with oae := { s.oae with closes := rest } } :=
    congrArg (fun l : List WaitingClose => { s with oae := { s.oae with closes := l.tail } }) h
  unfold closeReaches
  rw [judgedClose_eq_some_iff.2 ⟨rest, h⟩, htake]

/-- A stage step reached in the statement's words is the one the model finds, and splits the close there. -/
theorem StageReached.spec (h : StageReached n s k x after handed u) :
    closeReaches n s = some { state := u, handed := handed } ∧ ∃ w, (w.tenant x.tenant).state ≠ .vacant ∧ x.tenant = n ∧
      settleContract x.tenant w = some k ∧
      { state := u, handed := handed } = stageEntryUnder k x (addLifetime x (applyPending x.tenant w)) ∧
      closePeriod s = after.foldl settle (settle w x) := by
  obtain ⟨rfl, c, f, rest, before, w, hcloses, hsplit, hbefore, hw, hv, hk, he⟩ := stageReached_iff.1 h
  have hfind : (before ++ x :: after).find? (fun y => decide (y.tenant = x.tenant)) = some x :=
    List.find?_eq_some_iff_append.2 ⟨decide_eq_true rfl, before, after, rfl, fun o ho => by simpa using hbefore o ho⟩
  have hwhile : (before ++ x :: after).takeWhile (fun y => decide (y.tenant ≠ x.tenant)) = before := by
    rw [List.takeWhile_append_of_pos fun o ho => decide_eq_true (hbefore o ho), List.takeWhile_cons_of_neg (by simp), List.append_nil]
  refine ⟨?_, w, hv, rfl, hk, he, ?_⟩
  · rw [closeReaches_of_judged hcloses, hsplit, hfind, hwhile, ← hw, he]
    exact stageEntry_of_contract hv hk
  · rw [closePeriod_of_judged hcloses]
    unfold runClose
    have htake : s.onOae (fun o => { o with closes := rest }) = { s with oae := { s.oae with closes := rest } } := rfl
    rw [htake, hsplit, List.foldl_append, List.foldl_cons, ← hw]

theorem exists_stageReached {e : StageEntry} (h : closeReaches n s = some e) :
    ∃ k x after, StageReached n s k x after e.handed e.state := by
  have hjudged : ∃ c f rest, s.oae.closes = { period := c, feeds := some f } :: rest := by
    cases hj : s.judgedClose with
    | none =>
      rw [closeReaches, hj] at h
      cases h
    | some p =>
      obtain ⟨c, f⟩ := p
      exact ⟨c, f, judgedClose_eq_some_iff.1 hj⟩
  obtain ⟨c, f, rest, hcloses⟩ := hjudged
  rw [closeReaches_of_judged hcloses] at h
  obtain ⟨x, hfind, hentry⟩ := Option.bind_eq_some_iff.1 h
  obtain ⟨rfl, hbefore, after, hsplit⟩ := find?_tenant_split hfind
  obtain ⟨hv, k, hk, he⟩ := contract_of_stageEntry hentry
  exact ⟨k, x, after, stageReached_iff.2 ⟨rfl, c, f, rest, _, _, hcloses, hsplit, hbefore, rfl, hv, hk, he⟩⟩

/-- A row whose condition holds at the stage step is the close: it ends from that stage step. -/
theorem closeWith_of_reached {kind : StageEntry → Bool} (hset : Settling s) (h : StageReached n s k x after handed u)
    (hkind : kind { state := u, handed := handed } = true)
    (hc : (u.esc n).stage = .armed → (u.esc n).countdown = some 1)
    (hi : (u.tenant n).state = .active ∨ (u.esc n).stage = .restoring) :
    ∃ t, CloseEnds n k x after (stageStep n handed u) t ∧ closeWith n kind s = t ∧ closePeriod s = t := by
  obtain ⟨hreaches, w, hv, rfl, hk, he, hclose⟩ := h.spec
  obtain ⟨z, hz, hsettle⟩ := settle_ends hv hk rfl (beforeSlot_of_stageEntryUnder he hc hi)
  have hholds : closeHolds x.tenant kind s = true := by
    rw [closeHolds, hreaches, (settling_iff s).2 hset]
    exact hkind
  exact ⟨closePeriod s, ⟨z, hz, by rw [hclose, hsettle]⟩, closeWith_of_holds hholds, rfl⟩

/-- A row whose condition holds at no stage step that the next close reaches changes nothing. -/
theorem closeWith_of_none {kind : StageEntry → Bool}
    (h : ¬ Settling s ∨ ∀ k x after handed u, StageReached n s k x after handed u → ¬ kind { state := u, handed := handed } = true) :
    closeWith n kind s = s := by
  refine closeWith_of_not ?_
  rw [← Bool.not_eq_true]
  intro hholds
  rw [closeHolds, Bool.and_eq_true, settling_iff] at hholds
  obtain ⟨hset, hkind⟩ := hholds
  cases hreaches : closeReaches n s with
  | none =>
    rw [hreaches] at hkind
    cases hkind
  | some e =>
    rw [hreaches] at hkind
    obtain ⟨k, x, after, hreached⟩ := exists_stageReached hreaches
    exact h.elim (fun hnot => hnot hset) fun hnone => hnone k x after e.handed e.state hreached hkind

/-! ### The three conditions -/

theorem armExpires_iff :
    armExpires n u = true ↔
      (u.tenant n).state = .active ∧ (u.esc n).stage = .armed ∧ (u.esc n).countdown = some 1 ∧ ¬ BothClear n u := by
  rw [armExpires, decide_eq_true_iff, ← quiet_iff, Bool.not_eq_true]

theorem atConfirmLimit_iff (g : SwitchState) : atConfirmLimit n g u = true ↔ ∃ w, LimitReached n g u w := by
  unfold atConfirmLimit LimitReached
  cases hw : (u.esc n).awaiting with
  | none => simp
  | some w =>
    rw [decide_eq_true_iff]
    constructor
    · rintro ⟨hage, hmark, hswitch⟩
      exact ⟨w, rfl, hage, hmark, hswitch⟩
    · rintro ⟨w', hw', hage, hmark, hswitch⟩
      obtain rfl := Option.some.inj hw'
      exact ⟨hage, hmark, hswitch⟩

theorem shedFails_iff :
    shedFails n handed u = true ↔
      (u.tenant n).state = .active ∧ (u.esc n).stage = .shedding ∧ ¬ Relieved n handed u ∧ ∃ w, LimitReached n .off u w := by
  rw [shedFails, Bool.and_eq_true, Bool.and_eq_true, decide_eq_true_iff, Bool.not_eq_true', ← Bool.not_eq_true, relieved_iff,
    atConfirmLimit_iff, and_assoc, and_assoc]

theorem restoreLimits_iff : restoreLimits n u = true ↔ (u.esc n).stage = .restoring ∧ ∃ w, LimitReached n .on u w := by
  rw [restoreLimits, Bool.and_eq_true, decide_eq_true_iff, atConfirmLimit_iff]

theorem stageStep_of_arm_expiry (hstage : (u.esc n).stage = .armed) (hcount : (u.esc n).countdown = some 1) (hnot : ¬ BothClear n u) :
    stageStep n handed u = sheddingStep n handed (enterShedding n u) := by
  obtain ⟨-, harmed, -⟩ := stageStep_of_stage n handed u
  rw [harmed hstage, armedStep_of_countdown hnot hcount]
  exact if_pos le_rfl

theorem stageStep_of_shed_failure {w : Awaiting} (hstage : (u.esc n).stage = .shedding) (hnot : ¬ Relieved n handed u)
    (h : LimitReached n .off u w) : stageStep n handed u = chooseCandidate n handed (failOutlet n w.addr u) := by
  obtain ⟨-, -, hshedding, -⟩ := stageStep_of_stage n handed u
  obtain ⟨hw, hage, hmark, hoff⟩ := h
  rw [hshedding hstage, sheddingStep_of_awaiting hnot hw, judgeOff_of_marked hmark hoff, if_neg (Nat.not_lt.2 hage)]

theorem restoringStep_of_limit {w : Awaiting} (h : LimitReached n .on u w) :
    restoringStep n u = goOnNewest n (unmark n w.addr (fun k => { k with atLimit := k.atLimit + 1 }) u) := by
  obtain ⟨hw, hage, hmark, hon⟩ := h
  rw [restoringStep_of_awaiting hw, judgeOn_of_marked hmark, if_neg hon, if_neg (Nat.not_lt.2 hage)]

end Reached

/-! ### The table -/

theorem armExpiry_spec (n : Nat) (handed : List HandedFeed) (s : State) :
    (∀ k x after u, Settling s → StageReached n s k x after handed u → (u.tenant n).state = .active → (u.esc n).stage = .armed →
      (u.esc n).countdown = some 1 → ¬ BothClear n u →
      ∃ v t, SheddingEntered n u v ∧ CloseEnds n k x after (sheddingStep n handed v) t ∧
        exec (.armExpiry n handed) s = .next t ∧ exec .close s = .next t) ∧
    ((¬ Settling s ∨ ∀ k x after u, StageReached n s k x after handed u → (u.tenant n).state ≠ .active ∨ (u.esc n).stage ≠ .armed ∨
        (u.esc n).countdown ≠ some 1 ∨ BothClear n u) →
      exec (.armExpiry n handed) s = .next s) := by
  refine ⟨fun k x after u hset h hactive hstage hcount hnot => ?expires, fun h => congrArg _ (closeWith_of_none ?nothing)⟩
  case expires =>
    obtain ⟨t, hends, hwith, hclose⟩ :=
      closeWith_of_reached (kind := fun e => decide (e.handed = handed) && armExpires n e.state) hset h
        (by rw [Bool.and_eq_true]; exact ⟨decide_eq_true rfl, armExpires_iff.2 ⟨hactive, hstage, hcount, hnot⟩⟩)
        (fun _ => hcount) (.inl hactive)
    rw [stageStep_of_arm_expiry hstage hcount hnot] at hends
    exact ⟨_, t, sheddingEntered_enterShedding n u, hends, congrArg _ hwith, congrArg _ hclose⟩
  case nothing =>
    refine h.imp_right fun hnone k x after handed' u hreached hkind => ?_
    rw [Bool.and_eq_true, decide_eq_true_iff] at hkind
    obtain ⟨rfl, hexpires⟩ := hkind
    obtain ⟨hactive, hstage, hcount, hnot⟩ := armExpires_iff.1 hexpires
    rcases hnone k x after u hreached with hn | hn | hn | hn
    · exact hn hactive
    · exact hn hstage
    · exact hn hcount
    · exact hnot hn

theorem shedFailed_spec (n : Nat) (handed : List HandedFeed) (s : State) :
    (∀ k x after u w, Settling s → StageReached n s k x after handed u → (u.tenant n).state = .active → (u.esc n).stage = .shedding →
      ¬ Relieved n handed u → LimitReached n .off u w →
      ∃ v t, OutletFailed n w.addr u v ∧ CloseEnds n k x after (chooseCandidate n handed v) t ∧
        exec (.shedFailed n handed) s = .next t ∧ exec .close s = .next t) ∧
    ((¬ Settling s ∨ ∀ k x after u, StageReached n s k x after handed u → (u.tenant n).state ≠ .active ∨ (u.esc n).stage ≠ .shedding ∨
        Relieved n handed u ∨ ∀ w, ¬ LimitReached n .off u w) →
      exec (.shedFailed n handed) s = .next s) := by
  refine ⟨fun k x after u w hset h hactive hstage hnot hlimit => ?fails, fun h => congrArg _ (closeWith_of_none ?nothing)⟩
  case fails =>
    obtain ⟨t, hends, hwith, hclose⟩ :=
      closeWith_of_reached (kind := fun e => decide (e.handed = handed) && shedFails n handed e.state) hset h
        (by rw [Bool.and_eq_true]; exact ⟨decide_eq_true rfl, shedFails_iff.2 ⟨hactive, hstage, hnot, w, hlimit⟩⟩)
        (fun harmed => absurd (hstage.symm.trans harmed) (by decide)) (.inl hactive)
    rw [stageStep_of_shed_failure hstage hnot hlimit] at hends
    exact ⟨_, t, outletFailed_failOutlet n w.addr u, hends, congrArg _ hwith, congrArg _ hclose⟩
  case nothing =>
    refine h.imp_right fun hnone k x after handed' u hreached hkind => ?_
    rw [Bool.and_eq_true, decide_eq_true_iff] at hkind
    obtain ⟨rfl, hfails⟩ := hkind
    obtain ⟨hactive, hstage, hnot, w, hlimit⟩ := shedFails_iff.1 hfails
    rcases hnone k x after u hreached with hn | hn | hn | hn
    · exact hn hactive
    · exact hn hstage
    · exact hnot hn
    · exact hn w hlimit

theorem restoreLimit_spec (n : Nat) (s : State) :
    (∀ k x after handed u w, Settling s → StageReached n s k x after handed u → (u.esc n).stage = .restoring → LimitReached n .on u w →
      ∃ v t, Unmarked n w.addr (u.esc n).cursor (fun k => { k with atLimit := k.atLimit + 1 }) u v ∧
        CloseEnds n k x after (goOnNewest n v) t ∧ exec (.restoreLimit n) s = .next t ∧ exec .close s = .next t) ∧
    ((¬ Settling s ∨ ∀ k x after handed u, StageReached n s k x after handed u → (u.esc n).stage ≠ .restoring ∨
        ∀ w, ¬ LimitReached n .on u w) →
      exec (.restoreLimit n) s = .next s) := by
  refine ⟨fun k x after handed u w hset h hstage hlimit => ?unmarks, fun h => congrArg _ (closeWith_of_none ?nothing)⟩
  case unmarks =>
    obtain ⟨t, hends, hwith, hclose⟩ :=
      closeWith_of_reached (kind := fun e => restoreLimits n e.state) hset h (restoreLimits_iff.2 ⟨hstage, w, hlimit⟩)
        (fun harmed => absurd (hstage.symm.trans harmed) (by decide)) (.inr hstage)
    obtain ⟨-, -, -, -, hstep⟩ := stageStep_of_stage n handed u
    rw [hstep hstage, restoringStep_of_limit hlimit] at hends
    exact ⟨_, t, unmarked_unmark n w.addr _ u, hends, congrArg _ hwith, congrArg _ hclose⟩
  case nothing =>
    refine h.imp_right fun hnone k x after handed u hreached hkind => ?_
    obtain ⟨hstage, w, hlimit⟩ := restoreLimits_iff.1 hkind
    exact (hnone k x after handed u hreached).elim (fun hn => hn hstage) fun hn => hn w hlimit

/-- Settles O48: the three rows are the close in which their stage step is due, and the stage steps case by case. -/
theorem escalationStepsOfTheTable : Obligations.EscalationStepsOfTheTable := by
  refine ⟨armExpiry_spec, shedFailed_spec, restoreLimit_spec, fun n s => ⟨?newest, ?placed, ?ended⟩, fun k n x s => ⟨?none, ?delayed, ?immediate⟩,
    fun n handed s => ⟨?calm, ?counts, ?expires, ?relapse, ?idle, ?holds⟩, fun n s => ⟨restoringStep_of_none, ?awaits⟩,
    fun k n xs handed s t ht => ?active⟩
  case newest => exact fun before a h hnew hon => ⟨_, unmarked_unmark_at_cursor n a _ s, goOnNewest_of_on h hnew hon⟩
  case placed =>
    intro before a e h hon he
    rw [goOnNewest_of_append h, if_neg hon]
    refine ⟨fun hrefused => ?_, fun hplaced => ?_⟩
    · rw [placeOn_of_refused (s := s.setEsc n { s.esc n with cursor := some a }) he hrefused]
      exact oneEsc_setEsc s n _
    · rw [placeOn_of_placed (s := s.setEsc n { s.esc n with cursor := some a }) he hplaced]
      exact oneEsc_setAwaiting_addRequest n a e s
  case ended =>
    intro tag k h hslot hk
    rw [goOnNewest_of_nil h]
    refine ⟨fun hfull => ?_, fun hroom => ?_⟩
    · rw [restoreEnd_of_full hslot hfull]
      exact oneEsc_setEsc s n _
    · rw [restoreEnd_of_room hslot hk hroom]
      exact ⟨_, _, oneEsc_setEsc s n _, oneTenant_setTenant _ n _, rfl⟩
  case none => exact takeTransition_of_none
  case delayed =>
    intro htrigger hidle haction
    rw [takeTransition_of_trigger htrigger hidle, haction]
    exact oneEsc_setEsc s n _
  case immediate =>
    intro htrigger hidle haction
    rw [takeTransition_of_trigger htrigger hidle, haction]
    exact sheddingEntered_enterShedding n s
  case calm =>
    intro h
    rw [armedStep_of_clear h]
    exact oneEsc_setEsc s n _
  case counts =>
    intro c h hc htwo
    rw [armedStep_of_countdown h hc, if_neg (Nat.not_le.2 htwo)]
    exact oneEsc_setEsc s n _
  case expires =>
    intro c h hc hone
    exact ⟨_, sheddingEntered_enterShedding n s, (armedStep_of_countdown h hc).trans (if_pos hone)⟩
  case relapse => exact fun h hb => ⟨_, sheddingEntered_enterShedding n s, holdStep_of_relapse h hb⟩
  case idle =>
    intro h hclear horder
    rw [holdStep_of_no_relapse h, if_pos ⟨(quiet_iff n s).2 hclear, horder⟩]
    exact oneEsc_setEsc s n _
  case holds =>
    intro h hnot
    rw [holdStep_of_no_relapse h, if_neg fun hidle => hnot ⟨(quiet_iff n s).1 hidle.left, hidle.right⟩]
  case awaits =>
    rintro w o hw rfl
    rw [restoringStep_of_awaiting hw]
    refine ⟨fun hmark => ⟨_, oneEsc_setEsc s n _, judgeOn_of_unmarked hmark⟩, fun hmark hon => ⟨_, unmarked_unmark n w.addr _ s, ?_⟩,
      fun hmark hon hage => ?_, fun hmark hon hage => ⟨_, unmarked_unmark n w.addr _ s, ?_⟩⟩
    · rw [judgeOn_of_marked hmark, if_pos hon]
    · rw [judgeOn_of_marked hmark, if_neg hon, if_pos hage]
      exact oneEsc_setEsc s n _
    · rw [judgeOn_of_marked hmark, if_neg hon, if_neg (Nat.not_lt.2 hage)]
  case active =>
    subst ht
    obtain ⟨hidle, harmed, hshedding, hhold, hrestoring⟩ := stageStep_of_stage n handed (xs.foldl (takeTransition k n) s)
    have hother : ∀ {g : Stage}, g ≠ .armed → ((xs.foldl (takeTransition k n) s).esc n).stage = g →
        esActive k n xs handed s = stageStep n handed (xs.foldl (takeTransition k n) s) := fun hg h =>
      esActive_of_not_newly_armed (.inr (h ▸ hg))
    exact ⟨esActive_of_armed, fun hs ht => (esActive_of_not_newly_armed (.inl hs)).trans (harmed ht),
      fun h => (hother (by decide) h).trans (hidle h), fun h => (hother (by decide) h).trans (hshedding h),
      fun h => (hother (by decide) h).trans (hhold h), fun h => (hother (by decide) h).trans (hrestoring h), fun h => if_pos h, fun h => if_neg h⟩

end Sys2Proof.Stated
end

section

/-! ### The tables, the bytes of upstream frames, and what TP sends -/

namespace Sys2Proof.Stated

open Sys2Proof.Machine

/-! ### The sparse tables -/

/-- Two canonical tables from which the same is read are the same. -/
theorem eq_of_tableGet_eq {α : Type} [DecidableEq α] {d : α} {t u : Table α} (ht : tableWf d t) (hu : tableWf d u)
    (h : ∀ j, tableGet d t j = tableGet d u j) : t = u := by
  have hmem : ∀ p : Nat × α, p ∈ t ↔ p ∈ u := fun p => by rw [mem_table_iff ht, mem_table_iff hu, h]
  have hfirst : (t.map Prod.fst).Pairwise (· < ·) := ht.left
  have hsecond : (u.map Prod.fst).Pairwise (· < ·) := hu.left
  rw [List.pairwise_map] at hfirst hsecond
  have hanti : Std.Antisymm fun p q : Nat × α => p.1 < q.1 := ⟨fun p q hpq hqp => absurd hqp (Nat.lt_asymm hpq)⟩
  have hirrefl : Std.Irrefl fun p q : Nat × α => p.1 < q.1 := ⟨fun p => Nat.lt_irrefl p.1⟩
  exact hfirst.eq_of_mem_iff hsecond hmem

/-- Settles O57: the laws of the sparse tables, and that a canonical table is determined by what is read from it. -/
theorem tablesReadBackAndStayCanonical : Obligations.TablesReadBackAndStayCanonical := fun d t k v =>
  ⟨tableGet_tableSet_same d t k v, fun _ hj => tableGet_tableSet_other d t v hj.symm, tableWf_tableSet d t k v, tableWf_nil d,
    fun _ ht hu h => eq_of_tableGet_eq ht hu h⟩

/-! ### The bytes of an upstream frame -/

theorem upFrame_eq (addr : BitVec 4) (kind : Nat) (tag : Byte) (payload : List Byte) :
    upFrame addr kind tag payload = trunkBytes addr kind tag payload := by
  unfold upFrame trunkBytes withCrc16
  rw [Nat.mul_comm addr.toNat 4]

theorem statusCode_eq (x : Status) : x.code = statusCode x := by cases x <;> rfl

theorem outcomeCode_eq (x : CompletionOutcome) : x.code = outcomeCode x := by cases x <;> rfl

theorem b1_machineState_code (x : MachineState) : b1 x.code = machineCode x := by cases x <;> rfl

theorem b1_stage_code (x : Stage) : b1 x.code = stageCode x := by cases x <;> rfl

theorem b1_recordFlag_code (x : RecordFlag) : b1 x.code = recordFlagByte x := by cases x <;> rfl

theorem b1_switchState_code (x : SwitchState) : b1 x.code = switchByte x := by cases x <;> rfl

/-- The byte of a tenant's state in a statement. -/
def tenantStateByte : TenantState → Byte
  | .vacant => 0
  | .active => 1
  | .held => 2
  | .closing => 3

/-- The byte of a contract's class in a statement. -/
def classByte : TenantClass → Byte
  | .pooled => 0
  | .perFeed => 1

/-- The byte of the covered feed in a statement. -/
def coveredByte : Option Feed → Byte
  | none => 0
  | some .a => 1
  | some .b => 2

theorem b1_tenantState_code (x : TenantState) : b1 x.code = tenantStateByte x := by cases x <;> rfl

theorem b1_class_code (x : TenantClass) : b1 x.code = classByte x := by cases x <;> rfl

theorem b1_coveredCode (x : Option Feed) : b1 (coveredCode x) = coveredByte x := by
  cases x with
  | none => rfl
  | some f => cases f <;> rfl

theorem replyBytes_eq (addr : BitVec 4) (r : Reply) :
    replyBytes addr r = trunkBytes addr 2 r.tag ([b1 r.code, b1 (statusCode r.status)] ++ r.result) := by
  have hpayload : r.payload = [b1 r.code, b1 (statusCode r.status)] ++ r.result := by
    rw [Reply.payload, be_one, be_one, statusCode_eq]
    rfl
  rw [replyBytes, upFrame_eq, hpayload]

theorem demandBytes_eq (d : Option DemandValue) : demandBytes d = demandField d := by
  cases d with
  | none => rfl
  | some d =>
    cases hcls : d.cls <;> simp only [demandBytes, demandField, hcls] <;> rfl

theorem breachBytes_eq (c : ClosedBreach) : breachBytes c = logSlot c := by
  have hkind : be 1 c.kind.code = [match c.kind with | .demand => 0#8 | .burst => 1#8] := by cases c.kind <;> rfl
  have hfeeds : be 1 c.feeds.code = [if c.feeds.a && c.feeds.b then 2#8 else if c.feeds.b then 1#8 else 0#8] := by
    unfold FeedSet.code
    cases c.feeds.a <;> cases c.feeds.b <;> rfl
  have houtcome : be 1 c.outcome.code =
      [match c.outcome with | .cleared => 0#8 | .shed => 1#8 | .held => 2#8 | .reset => 3#8] := by cases c.outcome <;> rfl
  rw [breachBytes, hkind, hfeeds, houtcome]
  rfl

theorem length_breachBytes (c : ClosedBreach) : (breachBytes c).length = 10 := by
  simp only [breachBytes, List.length_append, length_be]

theorem breachLogBytes_eq (log : List ClosedBreach) :
    breachLogBytes log = (log.take 4).flatMap logSlot ++ List.replicate (40 - 10 * (log.take 4).length) 0#8 := by
  have hbytes : breachBytes = logSlot := funext breachBytes_eq
  have hlength := length_flatMap_of_const length_breachBytes (log.take 4)
  unfold breachLogBytes
  dsimp only
  rw [show Config.breachLogDepth = 4 from rfl, hlength, hbytes, Nat.mul_comm]

theorem statementBytes_eq (x : Statement) : x.bytes = statementBytes x := by
  have hpeak : peakBytes x.peak = match x.peak with
      | none => List.replicate 6 0#8
      | some k => [1#8] ++ be 3 k.watts ++ be 2 k.period.toNat := by cases x.peak <;> rfl
  unfold Statement.bytes statementBytes
  rw [demandBytes_eq, breachLogBytes_eq, hpeak]
  simp only [be_one, b1_tenantState_code, b1_class_code, b1_machineState_code, b1_stage_code, b1_coveredCode, List.append_assoc,
    List.cons_append, List.nil_append]
  rfl

theorem completionPayload_eq (c : Completion) :
    c.payload = [b1 c.code, b1 (outcomeCode c.outcome)] ++
      match c.body with
      | .release a => [b1 a.head, b1 a.outlet]
      | .statement x => statementBytes x
      | .tenant t => [b1 t]
      | .restore t k => [b1 t] ++ be 2 k.confirmed ++ be 2 k.alreadyOn ++ be 2 k.atLimit := by
  unfold Completion.payload
  rw [be_one, be_one, outcomeCode_eq]
  cases c.body with
  | release a =>
    rw [CompletionBody.bytes, be_one, be_one]
    exact rfl
  | statement x => exact congrArg ([b1 c.code, b1 (outcomeCode c.outcome)] ++ ·) (statementBytes_eq x)
  | tenant t =>
    rw [CompletionBody.bytes, be_one]
    exact rfl
  | restore t k =>
    rw [CompletionBody.bytes, be_one]
    exact rfl

theorem noticePayload_eq (n : Notice) :
    n.payload = [b1 n.source] ++ be 2 n.period.toNat ++ be 2 n.latched.toNat ++ be 2 n.unreported.toNat ++
      [match n.resetCause with | none => 0#8 | some .powerOn => 1#8 | some .resetPin => 2#8 | some .orderFull => 3#8 | some .orderAccounts => 4#8] := by
  unfold Notice.payload
  rw [be_one, be_one]
  cases n.resetCause with
  | none => rfl
  | some c => cases c <;> rfl

theorem summaryPayload_eq (r : Summary) :
    r.payload = [b1 r.tenant] ++ be 2 r.period.toNat ++ be 6 r.energyA ++ be 6 r.energyB ++ be 3 r.rateA ++ be 3 r.rateB ++
      demandField r.demand ++ [machineCode r.burstState, machineCode r.demandState, stageCode r.stage, flagOf r.incomplete] := by
  have hflag : flagByte r.incomplete = flagOf r.incomplete := rfl
  unfold Summary.payload
  simp only [be_one, demandBytes_eq, b1_machineState_code, b1_stage_code, hflag, List.append_assoc, List.cons_append, List.nil_append]

theorem forwardEntryBytes_eq (e : ForwardEntry) :
    e.bytes = [b1 e.outlet, switchByte e.switchState, recordFlagByte e.flag, b1 e.primary] ++ be 4 e.delta := by
  unfold ForwardEntry.bytes
  simp only [be_one, b1_switchState_code, b1_recordFlag_code, List.cons_append, List.nil_append]

theorem forwardPayload_eq (g : ForwardFrame) (part : ForwardPart) :
    g.payload part =
      [b1 g.head] ++ be 2 g.stamp.toNat ++ [b1 ((if g.flags.a then 1 else 0) + if g.flags.b then 2 else 0)] ++ [b1 part.code] ++
        [b1 (g.partEntries part).length] ++
        (g.partEntries part).flatMap fun e =>
          [b1 e.outlet, switchByte e.switchState, recordFlagByte e.flag, b1 e.primary] ++ be 4 e.delta := by
  have hentry : ForwardEntry.bytes = fun e =>
      [b1 e.outlet, switchByte e.switchState, recordFlagByte e.flag, b1 e.primary] ++ be 4 e.delta := funext forwardEntryBytes_eq
  rw [ForwardFrame.payload, be_one, be_one, be_one, hentry]
  rfl

/-- The model's bytes of a frame in hand are those the statements write out. -/
theorem frameBytes_eq (addr : BitVec 4) (f : UpFrame) : f.bytes addr = frameBytes addr f := by
  cases f with
  | completion c => exact (upFrame_eq _ _ _ _).trans (congrArg (trunkBytes addr 3 c.tag) (completionPayload_eq c))
  | notice n => exact (upFrame_eq _ _ _ _).trans (congrArg (trunkBytes addr 4 0) (noticePayload_eq n))
  | summary r => exact (upFrame_eq _ _ _ _).trans (congrArg (trunkBytes addr 5 0) (summaryPayload_eq r))
  | forward g part =>
    refine (upFrame_eq _ _ _ _).trans (congrArg (trunkBytes addr 6 0) ((forwardPayload_eq g part).trans ?_))
    cases part <;> rfl

/-! ### Replies and the ends of frames -/

theorem gapOver_iff (p : TrunkPort) : p.gapOver = true ↔ GapOver p := by
  unfold TrunkPort.gapOver GapOver
  rw [Bool.and_eq_true, lineIdle_iff, decide_eq_true_iff, and_assoc]
  rfl

theorem noOtherWindow_iff (p : TrunkPort) : p.noOtherWindow = true ↔ ∀ w, p.window = some w → w.own = true := by
  unfold TrunkPort.noOtherWindow TrunkPort.inOwnWindow
  cases p.window with
  | none => simp
  | some w => simp

theorem replyMayStart_iff (p : TrunkPort) :
    p.replyMayStart = true ↔ p.sending = .nothing ∧ p.rx = none ∧ PromptNow p ∨ GapOver p := by
  unfold TrunkPort.replyMayStart PromptNow
  rw [Bool.or_eq_true, Bool.and_eq_true, Bool.and_eq_true, lineIdle_iff, noOtherWindow_iff, gapOver_iff, and_assoc]

theorem exec_replyStart_of_slot {s : State} {r : Reply} (h : s.tp.slot = some r) :
    exec .replyStart s = .next (if s.tp.replyMayStart then
      { s with
        tp := { s.tp with
          sending := .reply, idleTicks := 0
          lastSent := trunkBytes s.tp.unitAddr 2 r.tag ([b1 r.code, b1 (statusCode r.status)] ++ r.result) } } else s) := by
  have hexec : exec .replyStart s = execReplyStart s := rfl
  rw [hexec, execReplyStart, h, ← replyBytes_eq]
  rfl

theorem transmitEnd_of_reply {p : TrunkPort} (h : p.sending = .reply) : p.transmitEnd = replySent p := by
  rw [TrunkPort.transmitEnd, h]
  rfl

theorem transmitEnd_of_inHand {p : TrunkPort} (h : p.sending = .inHand) :
    p.transmitEnd = { p with sending := .nothing, idleTicks := 0, inHand := afterSent p.inHand } := by
  rw [TrunkPort.transmitEnd, h]

theorem endTransmission_of_no_reset {s : State} (h : s.tp.sending ≠ .reply ∨ s.tp.reset = none) :
    endTransmission s = { s with tp := s.tp.transmitEnd } := by
  unfold endTransmission
  dsimp only
  split
  · next k hsend hreset =>
    rcases h with h | h
    · exact absurd hsend h
    · exact absurd (hreset.symm.trans h) nofun
  · rfl

theorem afterSent_of_not_first {f : UpFrame} (h : ∀ g, f ≠ .forward g .first) : afterSent (some f) = none := by
  unfold afterSent
  split
  · next g heq => exact absurd (Option.some.inj heq) (h g)
  · rfl

/-- Settles O53: the rules of a reply and the ends of a transmission, and the levels of the frame that is sent. -/
theorem repliesAndFramesAreSent : Obligations.RepliesAndFramesAreSent := by
  refine ⟨fun s r hslot hsend hrx hrule => ?starts, fun s h => ?waits, fun s => ⟨fun hsend hreset => ?reply, fun f hsend hf hnot => ?frame,
    fun g hsend hg => ?first, fun hsend => ?nothing, ?direction⟩, fun s => ⟨fun hsend => ⟨?chars, fun bit => ?level⟩,
    fun hsend => ⟨if_pos hsend, fun bit => if_pos hsend⟩, fun others bit => ?line⟩, fun s inHeader => ⟨fun hsend => ?lost, fun hsend => ?kept⟩⟩
  case starts =>
    have hmay : s.tp.replyMayStart = true := (replyMayStart_iff s.tp).2 (hrule.imp_left fun hp => ⟨hsend, hrx, hp⟩)
    exact (exec_replyStart_of_slot hslot).trans (congrArg Host.Outcome.next (if_pos hmay))
  case waits =>
    cases hslot : s.tp.slot with
    | none =>
      have hexec : exec .replyStart s = execReplyStart s := rfl
      rw [hexec, execReplyStart, hslot]
    | some r =>
      refine (exec_replyStart_of_slot hslot).trans (congrArg Host.Outcome.next (if_neg fun hmay => ?_))
      rcases (replyMayStart_iff s.tp).1 hmay with ⟨hsend, hrx, hp⟩ | hgap
      · rcases h with h | h | h | ⟨h, -⟩
        · exact absurd (hslot.symm.trans h) nofun
        · exact h hsend
        · exact h hrx
        · exact h hp
      · obtain ⟨hsend, hrx, -⟩ := id hgap
        rcases h with h | h | h | ⟨-, h⟩
        · exact absurd (hslot.symm.trans h) nofun
        · exact h hsend
        · exact h hrx
        · exact h hgap
  case reply =>
    refine congrArg Host.Outcome.next ((endTransmission_of_no_reset (.inr hreset)).trans ?_)
    rw [transmitEnd_of_reply hsend]
  case frame =>
    refine congrArg Host.Outcome.next ((endTransmission_of_no_reset (.inl (by rw [hsend]; decide))).trans ?_)
    rw [transmitEnd_of_inHand hsend, hf, afterSent_of_not_first hnot]
  case first =>
    refine congrArg Host.Outcome.next ((endTransmission_of_no_reset (.inl (by rw [hsend]; decide))).trans ?_)
    rw [transmitEnd_of_inHand hsend, hg]
    rfl
  case nothing =>
    refine congrArg Host.Outcome.next ((endTransmission_of_no_reset (.inl (by rw [hsend]; decide))).trans ?_)
    rw [TrunkPort.transmitEnd, hsend]
  case direction => exact decide_eq_true_iff
  case chars => exact if_neg hsend
  case level => exact (if_neg hsend).trans (levelAt_eq_frameLevel _ bit)
  case line => exact Bool.and_eq_false_iff
  case lost => exact congrArg (fun p => Host.Outcome.next { s with tp := p }) (if_neg hsend)
  case kept => exact congrArg (fun p => Host.Outcome.next { s with tp := p }) (if_pos hsend)

end Sys2Proof.Stated
end

section

/-! ### The transmit arbiter -/

namespace Sys2Proof.Stated

open Sys2Proof.Machine

section Arbiter

variable {s : State}

theorem startInHand_eq (f : UpFrame) (s : State) : startInHand f s = { s with tp := started f s.tp } := by
  unfold startInHand started
  rw [← frameBytes_eq]
  rfl

theorem exec_idleGap_of_closed (h : s.tp.slot ≠ none ∨ ¬ GapOver s.tp) : exec .idleGap s = .next s := by
  refine congrArg Host.Outcome.next (if_neg ?_)
  rintro ⟨hslot, hgap⟩
  exact h.elim (fun hne => hne hslot) fun hno => hno ((gapOver_iff s.tp).1 hgap)

theorem exec_idleGap_of_inHand {f : UpFrame} (hslot : s.tp.slot = none) (hgap : GapOver s.tp) (h : s.tp.inHand = some f) :
    exec .idleGap s = .next (startInHand f s) := by
  have hexec : exec .idleGap s = execIdleGap s := rfl
  rw [hexec, execIdleGap, if_pos ⟨hslot, (gapOver_iff s.tp).2 hgap⟩, h]

theorem exec_idleGap_of_free (hslot : s.tp.slot = none) (hgap : GapOver s.tp) (h : s.tp.inHand = none) :
    exec .idleGap s = .next (selectFrame s) := by
  have hexec : exec .idleGap s = execIdleGap s := rfl
  rw [hexec, execIdleGap, if_pos ⟨hslot, (gapOver_iff s.tp).2 hgap⟩, h]

theorem selectFrame_of_completion {c : Completion} {rest : List Completion} (h : s.tp.completions = c :: rest) :
    selectFrame s = startInHand (.completion c) { s with tp := { s.tp with completions := rest } } := by
  rw [selectFrame, h]
  rfl

theorem selectFrame_of_notice {n : Nat} {rest : List Nat} (hc : s.tp.completions = []) (h : s.nu.queue = n :: rest) :
    selectFrame s = startInHand (.notice (buildNotice n s)) (afterBuild n rest s) := by
  rw [selectFrame, hc, h]

theorem selectFrame_of_summary {r : Summary} {rest : List Summary} (hc : s.tp.completions = []) (hn : s.nu.queue = [])
    (h : s.tp.summaries = r :: rest) : selectFrame s = startInHand (.summary r) { s with tp := { s.tp with summaries := rest } } := by
  rw [selectFrame, hc, hn, h]
  rfl

theorem selectFrame_of_forward {f : ForwardFrame} {rest : List ForwardFrame} (hc : s.tp.completions = []) (hn : s.nu.queue = [])
    (hs : s.tp.summaries = []) (h : s.tp.forwards = f :: rest) :
    selectFrame s = startInHand (.forward f (firstPart f)) { s with tp := { s.tp with forwards := rest } } := by
  rw [selectFrame, hc, hn, hs, h]
  rfl

theorem selectFrame_of_none (hc : s.tp.completions = []) (hn : s.nu.queue = []) (hs : s.tp.summaries = []) (hf : s.tp.forwards = []) :
    selectFrame s = s := by
  rw [selectFrame, hc, hn, hs, hf]

theorem afterBuild_of_unit (rest : List Nat) (s : State) :
    afterBuild 0 rest s = { s with nu := { s.nu with queue := rest, unit := { s.nu.unit with unreported := 0 } } } := rfl

theorem afterBuild_of_tenant {n : Nat} (hn : n ≠ 0) (rest : List Nat) (s : State) :
    afterBuild n rest s = (s.onNu fun m => { m with queue := rest }).setCauses n { s.causes n with unreported := 0 } := if_neg hn

theorem buildNotice_of_tenant {n : Nat} (hn : n ≠ 0) (s : State) :
    buildNotice n s =
      { source := n, period := s.ct.n, latched := (s.causes n).latched, unreported := (s.causes n).unreported, resetCause := none } := by
  have hset : s.sourceSet n = s.causes n := if_neg hn
  rw [buildNotice, hset, if_neg hn]

end Arbiter

/-- Settles O54: the gap rule, then the sources in their order. -/
theorem arbiterTakesTheFirstSource : Obligations.ArbiterTakesTheFirstSource := by
  refine fun s => ⟨exec_idleGap_of_closed, fun hslot hgap => ⟨fun f hf => ?inHand, fun hnone => ?select⟩⟩
  case inHand => rw [exec_idleGap_of_inHand hslot hgap hf, startInHand_eq]
  case select =>
    have hexec := exec_idleGap_of_free hslot hgap hnone
    refine ⟨fun c rest hc => ?completion, fun hc => ⟨fun rest hq => ?unit, fun n rest hn hq => ?tenant,
      fun hq => ⟨fun r rest hr => ?summary, fun f rest hs hf => ?forward, fun hs hf => ?nothing⟩⟩⟩
    case completion => rw [hexec, selectFrame_of_completion hc, startInHand_eq]
    case unit =>
      rw [hexec, selectFrame_of_notice hc hq, startInHand_eq]
      rfl
    case tenant =>
      rw [hexec, selectFrame_of_notice hc hq, startInHand_eq, afterBuild_of_tenant hn, buildNotice_of_tenant hn]
      exact ⟨_, rfl, rfl, State.causes_setCauses_same _ n _, fun m hm => causes_setCauses_other _ _ hm⟩
    case summary => rw [hexec, selectFrame_of_summary hc hq hr, startInHand_eq]
    case forward =>
      rw [hexec, selectFrame_of_forward hc hq hs hf, startInHand_eq]
      rfl
    case nothing => rw [hexec, selectFrame_of_none hc hq hs hf]

end Sys2Proof.Stated
end

section

/-! ### Receptions, reply windows and characters -/

namespace Sys2Proof.Stated

open Sys2Proof.Machine

/-! ### What is received leaves the unit silent -/

section Silent

variable {s t : State}

theorem sending_of_accountsValues (h : AccountsValues s t) (hs : s.tp.sending = .nothing) : t.tp.sending = .nothing := by
  obtain ⟨-, -, -, -, -, -, -, -, -, -, -, -, -, -, -, -, -, -, -, -, -, -, hnotice, hother⟩ := h
  by_cases hn : ∃ n, s.tp.inHand = some (.notice n)
  · obtain ⟨n, hn⟩ := hn
    obtain ⟨-, hsending⟩ := hnotice n hn
    exact hsending.trans hs
  · obtain ⟨-, hsending⟩ := hother fun n h => hn ⟨n, h⟩
    rw [hsending, hs]
    rfl

/-- A broadcast order handed over begins no transmission. -/
theorem sending_of_handed {c : Instr} (h : Handed c s t) (hs : s.tp.sending = .nothing) : t.tp.sending = .nothing := by
  unfold Handed at h
  split at h
  · obtain ⟨hother, hrunning⟩ := h
    by_cases hrun : s.ct.runState = .running
    · obtain ⟨-, -, -, -, -, -, -, -, hline, -⟩ := hrunning hrun
      rw [show t.tp.sending = s.tp.sending by rw [hline], hs]
    · rwa [hother hrun]
  · next option =>
    obtain ⟨hfull, haccounts, hnone⟩ := h
    by_cases hrefused : option ≠ 1 ∧ option ≠ 2 ∨ option = 1 ∧ s.tp.lockMap ≠ 0 ∧ s.tp.service = false
    · rwa [hnone hrefused]
    · by_cases htwo : option = 2
      · exact sending_of_accountsValues (haccounts htwo) hs
      · have hone : option = 1 := by tauto
        have hfree : s.tp.lockMap = 0 ∨ s.tp.service = true := by
          rw [← Bool.not_eq_false]
          tauto
        rw [hfull hone hfree]
        rfl
  · rwa [h]

theorem sending_arriveBroadcast (c : Instr) (hs : s.tp.sending = .nothing) : (arriveBroadcast c s).tp.sending = .nothing := by
  unfold arriveBroadcast
  split_ifs
  · exact hs
  · exact sending_of_handed (handed_handOver c s) hs

theorem sending_receiveBroadcast (payload : List Byte) (hs : s.tp.sending = .nothing) :
    (receiveBroadcast payload s).tp.sending = .nothing := by
  unfold receiveBroadcast
  split
  · exact hs
  · split
    · exact sending_arriveBroadcast _ hs
    · exact hs

theorem sending_decodeUnicast (tag : Byte) (payload : List Byte) (hs : s.tp.sending = .nothing) :
    (decodeUnicast tag payload s).tp.sending = .nothing := by
  unfold decodeUnicast
  split
  · exact hs
  · split_ifs
    · split
      · exact hs
      · exact hs
    · exact hs

theorem sending_receiveUnicast (f : TrunkFrame) (hs : s.tp.sending = .nothing) : (receiveUnicast f s).tp.sending = .nothing := by
  unfold receiveUnicast
  dsimp only
  split_ifs
  · exact sending_decodeUnicast _ _ hs
  · exact hs

theorem sending_routeFrame (f : TrunkFrame) (hs : s.tp.sending = .nothing) : (routeFrame f s).tp.sending = .nothing := by
  unfold routeFrame
  split_ifs
  · exact hs
  · exact hs
  · exact hs
  · exact sending_receiveBroadcast _ hs
  · exact sending_receiveUnicast f hs

theorem sending_takeFrame (bytes : List Byte) (error : Bool) (hs : s.tp.sending = .nothing) :
    (takeFrame bytes error s).tp.sending = .nothing := by
  unfold takeFrame
  split_ifs
  · exact hs
  · split
    · exact sending_routeFrame _ hs
    · exact hs

theorem sending_receiveCharacter (c : Character) (hs : s.tp.sending = .nothing) : (receiveCharacter s c).tp.sending = .nothing := by
  unfold receiveCharacter
  dsimp only
  split
  · split_ifs
    · exact sending_takeFrame _ _ hs
    · exact hs
  · exact hs

theorem sending_receiveTrunk (chars : List Character) (hs : s.tp.sending = .nothing) : (receiveTrunk chars s).tp.sending = .nothing := by
  induction chars generalizing s with
  | nil => exact hs
  | cons c chars ih => exact ih (sending_receiveCharacter c hs)

end Silent

/-! ### The characters of a line -/

theorem levels_sentCharacter (b : Byte) :
    Character.levels (sentCharacter b) =
      [false, b.getLsbD 7, b.getLsbD 6, b.getLsbD 5, b.getLsbD 4, b.getLsbD 3, b.getLsbD 2, b.getLsbD 1, b.getLsbD 0, true] := by
  have hbits : Character.levels (sentCharacter b) =
      (List.range 10).map fun bit => if bit = 0 then false else if bit = 9 then true else b.getLsbD (8 - bit) :=
    List.map_congr_left fun bit hbit => getLsbD_sentCharacter b (List.mem_range.1 hbit)
  rw [hbits]
  rfl

theorem lineLevels_eq (bytes : List Byte) :
    lineLevels bytes = bytes.flatMap fun b =>
      [false, b.getLsbD 7, b.getLsbD 6, b.getLsbD 5, b.getLsbD 4, b.getLsbD 3, b.getLsbD 2, b.getLsbD 1, b.getLsbD 0, true] := by
  rw [lineLevels, sentCharacters, List.flatMap_map]
  exact congrArg (fun f => bytes.flatMap f) (funext levels_sentCharacter)

theorem anyFramingError_iff (chars : List Character) : anyFramingError chars = true ↔ ∃ c ∈ chars, c.getLsbD 0 = false := by
  simp only [anyFramingError, List.any_eq_true, Character.framingError, Bool.not_eq_true']

/-! ### Receptions and windows -/

section Frames

variable {first : Character} {rest : List Character} {s : State}

theorem exec_trunkFrame_of_silent (h : s.tp.sending = .nothing) :
    exec (.trunkFrame first rest) s = .next (receiveTrunk (first :: rest) s) := congrArg Host.Outcome.next (if_pos h)

theorem exec_trunkFrame_of_sending (h : s.tp.sending ≠ .nothing) : exec (.trunkFrame first rest) s = .next s :=
  congrArg Host.Outcome.next (if_neg h)

theorem receiveTrunk_append (chars chars' : List Character) (s : State) :
    receiveTrunk (chars ++ chars') s = receiveTrunk chars' (receiveTrunk chars s) := List.foldl_append ..

theorem receiveTrunk_short {chars held : List Character} (hchars : chars ≠ []) (hheld : held = s.tp.rx.getD [])
    (h : ∀ x y z len more, bytesOf (held ++ chars) = x :: y :: z :: len :: more → held.length + chars.length < 6 + len.toNat) :
    receiveTrunk chars s = { s with tp := { s.tp with rx := some (held ++ chars), idleTicks := 0 } } := by
  refine foldl_receiveCharacter_short chars s held hheld.symm hchars fun n hn => ?_
  unfold trunkLength at hn
  split at hn
  · next x y z len more hbytes =>
    obtain rfl := Option.some.inj hn
    exact h x y z len more hbytes
  · cases hn

theorem exec_replyWindowExpiry_of_window {w : ReplyWindow} (h : s.tp.window = some w) :
    exec .replyWindowExpiry s = .next (if 5 ≤ w.ticks then { s with tp := { s.tp with window := none } } else s) := by
  have hexec : exec .replyWindowExpiry s = execReplyWindowExpiry s := rfl
  rw [hexec, execReplyWindowExpiry, h]
  rfl

theorem exec_replyWindowExpiry_of_none (h : s.tp.window = none) : exec .replyWindowExpiry s = .next s := by
  have hexec : exec .replyWindowExpiry s = execReplyWindowExpiry s := rfl
  rw [hexec, execReplyWindowExpiry, h]

end Frames

/-- Settles O52: receptions character by character, the end of a window, and the characters of a line. -/
theorem receptionsAndWindowsEnd : Obligations.ReceptionsAndWindowsEnd := by
  refine ⟨fun s => ⟨fun hs hrx => ?idleEnd, fun h => ?noReception, fun w hw hticks => ?expires, fun w hw hticks => ?waits,
    exec_replyWindowExpiry_of_none, fun first rest => exec_trunkFrame_of_sending, fun first rest chars held hchars hs hheld h => ?short,
    fun first rest first' rest' t hs ht => ?frames⟩, fun chars => ⟨rfl, anyFramingError_iff chars⟩,
    fun bytes => ⟨bytesOf_sentCharacters bytes, anyFramingError_sentCharacters bytes, lineLevels_eq bytes⟩⟩
  case idleEnd => exact congrArg Host.Outcome.next (if_pos ⟨hs, hrx⟩)
  case noReception =>
    refine congrArg Host.Outcome.next (if_neg ?_)
    rintro ⟨hs, hrx⟩
    exact h.elim (fun hne => hne hs) hrx
  case expires => rw [exec_replyWindowExpiry_of_window hw, if_pos hticks]
  case waits => rw [exec_replyWindowExpiry_of_window hw, if_neg (Nat.not_le.2 hticks)]
  case short =>
    subst hchars
    rw [exec_trunkFrame_of_silent hs, receiveTrunk_short (List.cons_ne_nil _ _) hheld h]
  case frames =>
    rw [exec_trunkFrame_of_silent hs] at ht ⊢
    obtain rfl := Host.Outcome.next.inj ht
    rw [exec_trunkFrame_of_silent (sending_receiveTrunk _ hs), ← receiveTrunk_append]
    rfl

end Sys2Proof.Stated
end

section

/-! ### A whole trunk frame -/

namespace Sys2Proof.Stated

open Sys2Proof.Machine

/-! ### The frame and its check -/

section Frame

variable {b0 kind tag len : Byte} {payload : List Byte}

/-- A frame of the length its header gives is taken whole. -/
theorem exec_trunkFrame_whole {first : Character} {rest : List Character} {s : State} (hs : s.tp.sending = .nothing)
    (hrx : s.tp.rx = none) (hlen : payload.length = len.toNat) (htotal : (bytesOf (first :: rest)).length = payload.length + 6)
    (htake : (bytesOf (first :: rest)).take (payload.length + 4) = b0 :: kind :: tag :: len :: payload) :
    exec (.trunkFrame first rest) s = .next (takeFrame (bytesOf (first :: rest)) (anyFramingError (first :: rest)) (heard s)) := by
  have hheader : trunkLength (bytesOf (first :: rest)) = some (first :: rest).length := by
    have hparts := trunkLength_append (m := (bytesOf (first :: rest)).drop (payload.length + 4))
      (show trunkLength (b0 :: kind :: tag :: len :: payload) = some (6 + len.toNat) from rfl)
    rw [← htake, List.take_append_drop] at hparts
    rw [hparts, ← length_bytesOf, htotal, hlen, Nat.add_comm]
  rw [exec_trunkFrame_of_silent hs, receiveTrunk_whole _ s hrx hheader]
  rfl

theorem length_withCrc16 (bytes : List Byte) : (withCrc16 bytes).length = bytes.length + 2 := by
  rw [withCrc16, List.length_append, length_be]

theorem take_withCrc16 (bytes : List Byte) : (withCrc16 bytes).take bytes.length = bytes := List.take_left

/-- The CRC of a frame whose bytes before it are known. -/
theorem crc16Ok_iff {bytes body : List Byte} (hlen : bytes.length = body.length + 2) (htake : bytes.take body.length = body) :
    crc16Ok bytes = true ↔ bytes = withCrc16 body := by
  have hbody : bytes.take (bytes.length - 2) = body := by rw [hlen, Nat.add_sub_cancel, htake]
  rw [crc16Ok, decide_eq_true_iff, hbody]

theorem takeFrame_of_bad {bytes : List Byte} {error : Bool} (s : State) (h : error = true ∨ ¬ crc16Ok bytes = true) :
    takeFrame bytes error s = latchUnit .trunkCheck s := by
  refine if_pos ?_
  rw [Bool.or_eq_true, Bool.not_eq_true', ← Bool.not_eq_true]
  exact h

/-- The frame that TP reads from the bytes. -/
def frameOf (b0 kind tag : Byte) (payload : List Byte) : TrunkFrame :=
  { up := b0.getLsbD 7, broadcast := b0.getLsbD 6, addr := b0.extractLsb' 2 4, kind := kind.toNat, tag := tag, payload := payload }

theorem takeFrame_of_sound (s : State) (hlen : payload.length = len.toNat) :
    takeFrame (withCrc16 (b0 :: kind :: tag :: len :: payload)) false s = routeFrame (frameOf b0 kind tag payload) s := by
  have hok : crc16Ok (withCrc16 (b0 :: kind :: tag :: len :: payload)) = true :=
    (crc16Ok_iff (length_withCrc16 _) (take_withCrc16 _)).2 rfl
  have hparse : parseTrunk (withCrc16 (b0 :: kind :: tag :: len :: payload)) = some (frameOf b0 kind tag payload) := by
    have hpayload : (payload ++ be 2 (crc16 (b0 :: kind :: tag :: len :: payload)).toNat).take len.toNat = payload :=
      hlen ▸ List.take_left
    exact congrArg (fun p => some (frameOf b0 kind tag p)) hpayload
  unfold takeFrame
  rw [hok, hparse]
  rfl

end Frame

/-! ### The frame by direction and kind -/

section Route

variable {b0 kind tag : Byte} {payload : List Byte} {s : State}

theorem toNat_eq_iff (k : Byte) {n : Nat} (hn : n < 256) : k.toNat = n ↔ k = BitVec.ofNat 8 n :=
  BitVec.toNat_eq_nat.trans (and_iff_right hn)

theorem routeFrame_of_reply (hup : b0.getLsbD 7 = true) (hkind : kind = 2) :
    routeFrame (frameOf b0 kind tag payload) s = s.onTp (closeWindowOf (b0.extractLsb' 2 4)) :=
  (if_pos hup).trans (if_pos ((toNat_eq_iff kind (by decide)).2 hkind))

theorem routeFrame_of_discarded (h : b0.getLsbD 7 = true ∧ kind ≠ 2 ∨ b0.getLsbD 7 = false ∧ kind ≠ 1) :
    routeFrame (frameOf b0 kind tag payload) s = s := by
  rcases h with ⟨hup, hkind⟩ | ⟨hdown, hkind⟩
  · exact (if_pos hup).trans (if_neg (mt (toNat_eq_iff kind (by decide)).1 hkind))
  · exact (if_neg (ne_true_of_eq_false hdown)).trans (if_pos (mt (toNat_eq_iff kind (by decide)).1 hkind))

theorem routeFrame_of_order (hdown : b0.getLsbD 7 = false) (hkind : kind = 1) :
    routeFrame (frameOf b0 kind tag payload) s =
      if b0.getLsbD 6 then receiveBroadcast payload s else receiveUnicast (frameOf b0 kind tag payload) s :=
  (if_neg (ne_true_of_eq_false hdown)).trans (if_neg fun hne => hne ((toNat_eq_iff kind (by decide)).2 hkind))

/-! ### The end of a reply of another unit -/

theorem closeWindowOf_of_same {a : BitVec 4} {p : TrunkPort} {w : ReplyWindow} (hw : p.window = some w) (ha : w.addr = a) :
    closeWindowOf a p = { p with window := none } := by
  unfold closeWindowOf
  rw [hw, Option.filter_some_neg (by simpa using ha)]

theorem closeWindowOf_of_other {a : BitVec 4} {p : TrunkPort} (h : ∀ w, p.window = some w → w.addr ≠ a) : closeWindowOf a p = p := by
  have hkept : p.window.filter (fun w => decide (w.addr ≠ a)) = p.window := by
    cases hw : p.window with
    | none => rfl
    | some w => exact Option.filter_some_pos (decide_eq_true (h w hw))
  exact congrArg (fun v => { p with window := v }) hkept

/-! ### Broadcast orders -/

/-- The two broadcast orders of the right length. -/
def BroadcastOf (payload : List Byte) (c : Instr) : Prop :=
  payload = [0x12] ∧ c = .broadcastHalt ∨ ∃ x, payload = [0x02, x] ∧ c = .broadcastResetUnit x.toNat

theorem receiveBroadcast_of_order {c : Instr} (h : BroadcastOf payload c) :
    receiveBroadcast payload s = arriveBroadcast c (closeWindow s) := by
  rcases h with ⟨rfl, rfl⟩ | ⟨x, rfl, rfl⟩ <;> rfl

theorem decodeBroadcast_eq_none {code : Byte} {params : List Byte} (hhalt : code :: params ≠ [0x12])
    (hreset : ∀ x, code :: params ≠ [0x02, x]) : decodeBroadcast code.toNat params = none := by
  unfold decodeBroadcast
  split_ifs with htwelve htwo
  · rw [(toNat_eq_iff code (by decide)).1 htwelve] at hhalt
    cases params with
    | nil => exact absurd rfl hhalt
    | cons x more => rfl
  · rw [(toNat_eq_iff code (by decide)).1 htwo] at hreset
    match params with
    | [] => rfl
    | [x] => exact absurd rfl (hreset x)
    | _ :: _ :: _ => rfl
  · rfl

theorem receiveBroadcast_of_other (hhalt : payload ≠ [0x12]) (hreset : ∀ x, payload ≠ [0x02, x]) :
    receiveBroadcast payload s = closeWindow s := by
  cases payload with
  | nil => rfl
  | cons code params =>
    unfold receiveBroadcast
    dsimp only
    rw [decodeBroadcast_eq_none hhalt hreset]

/-- The frame of a broadcast order meets the line as the order's own command does. -/
theorem arriveBroadcast_closeWindow_heard (c : Instr) (hs : s.tp.sending = .nothing) :
    arriveBroadcast c (closeWindow (heard s)) = broadcastFrame c s := (if_pos hs).symm

/-! ### Unicast orders -/

theorem receiveUnicast_of_other (h : b0.extractLsb' 2 4 ≠ s.tp.unitAddr ∨ s.tp.path ≠ .free) :
    receiveUnicast (frameOf b0 kind tag payload) s = openWindow (b0.extractLsb' 2 4) false s := by
  have hmine : decide ((frameOf b0 kind tag payload).addr = s.tp.unitAddr ∧ s.tp.path = .free) = false :=
    decide_eq_false (not_and_or.2 h)
  unfold receiveUnicast
  rw [hmine]
  rfl

theorem receiveUnicast_of_mine (ha : b0.extractLsb' 2 4 = s.tp.unitAddr) (hp : s.tp.path = .free) :
    receiveUnicast (frameOf b0 kind tag payload) s = decodeUnicast tag payload (openWindow (b0.extractLsb' 2 4) true s) := by
  have hmine : decide ((frameOf b0 kind tag payload).addr = s.tp.unitAddr ∧ s.tp.path = .free) = true := decide_eq_true ⟨ha, hp⟩
  unfold receiveUnicast
  rw [hmine]
  rfl

theorem decodeUnicast_of_unknown {code : Byte} {params : List Byte} (h : code.toNat ∉ orderCodes) :
    decodeUnicast tag (code :: params) s = fillSlot tag code.toNat (.plain .unknownOrder) s := if_neg h

theorem decodeUnicast_of_invalid {code : Byte} {params : List Byte} (h : code.toNat ∈ orderCodes)
    (hnone : decodeOrder tag code.toNat params = none) :
    decodeUnicast tag (code :: params) s = fillSlot tag code.toNat (.plain .invalidParameter) s := by
  rw [decodeUnicast, if_pos h, hnone]
  rfl

theorem decodeUnicast_of_order {code : Byte} {params : List Byte} {c : Instr} (h : code.toNat ∈ orderCodes)
    (hsome : decodeOrder tag code.toNat params = some c) :
    decodeUnicast tag (code :: params) s = { s with tp := { s.tp with path := .atOwner c } } := by
  rw [decodeUnicast, if_pos h, hsome]
  rfl

end Route

/-- Settles O51: the check of a whole frame, then its direction, kind and address decide. -/
theorem trunkFrameIsHandledByTheFirstCase : Obligations.TrunkFrameIsHandledByTheFirstCase := by
  rintro b0 kind tag len payload first rest chars bytes s h rfl hs hrx hlen rfl rfl
  refine ⟨?bad, fun hsound herror => ?sound⟩
  case bad =>
    rintro ⟨htotal, htake, hbad⟩
    rw [exec_trunkFrame_whole hs hrx hlen htotal htake]
    refine congrArg Host.Outcome.next (takeFrame_of_bad _ (hbad.imp_right fun hne hok => hne ?_))
    exact (crc16Ok_iff (body := b0 :: kind :: tag :: len :: payload) htotal htake).1 hok
  case sound =>
    have hexec : exec (.trunkFrame first rest) s = .next (routeFrame (frameOf b0 kind tag payload) (heard s)) := by
      have htake : (withCrc16 (b0 :: kind :: tag :: len :: payload)).take (payload.length + 4) = b0 :: kind :: tag :: len :: payload :=
        take_withCrc16 (b0 :: kind :: tag :: len :: payload)
      rw [exec_trunkFrame_whole (b0 := b0) (kind := kind) (tag := tag) hs hrx hlen (by rw [hsound]; exact length_withCrc16 _)
        (by rw [hsound]; exact htake), hsound, herror, takeFrame_of_sound (heard s) hlen]
    rw [hexec]
    refine ⟨fun hup hkind => ?reply, fun hother => ?discarded, fun hdown hkind hb => ?broadcast, fun a hdown hkind hb ha => ?unicast⟩
    case reply =>
      rw [routeFrame_of_reply hup hkind]
      refine ⟨fun w hw ha => ?_, fun h => ?_⟩
      · exact congrArg (fun p => Host.Outcome.next { s with tp := p }) (closeWindowOf_of_same (p := (heard s).tp) hw ha)
      · exact congrArg (fun p => Host.Outcome.next { s with tp := p }) (closeWindowOf_of_other (p := (heard s).tp) h)
    case discarded => rw [routeFrame_of_discarded hother]
    case broadcast =>
      rw [routeFrame_of_order hdown hkind, if_pos hb]
      refine ⟨fun c hc => ?_, fun hhalt hreset => ?_⟩
      · rw [receiveBroadcast_of_order hc, arriveBroadcast_closeWindow_heard c hs]
        refine ⟨fun hfree => ⟨_, handed_handOver c _, ?_⟩, fun howner => ?_⟩
        · rw [broadcastFrame_of_free c hs hfree]
        · rw [broadcastFrame_of_owner c hs howner]
      · rw [receiveBroadcast_of_other hhalt hreset]
        rfl
    case unicast =>
      subst ha
      rw [routeFrame_of_order hdown hkind, if_neg (ne_true_of_eq_false hb)]
      refine ⟨fun hother => ?other, fun w ha hp hw => ?mine⟩
      case other =>
        rw [receiveUnicast_of_other (s := heard s) hother]
        rfl
      case mine =>
        have hwindow : openWindow (b0.extractLsb' 2 4) true (heard s) = w := hw.symm
        rw [receiveUnicast_of_mine (s := heard s) ha hp, hwindow]
        refine ⟨fun hnil => ?empty, fun code params hcons hno => ?unknown, fun code params hcons hin hnone => ?invalid,
          fun code params c hcons hin hsome => ?taken⟩
        case empty =>
          rw [hnil]
          exact congrArg Host.Outcome.next (fillSlot_eq_replied tag 0 (.plain .unknownOrder) w)
        case unknown => rw [hcons, decodeUnicast_of_unknown hno, fillSlot_eq_replied]; rfl
        case invalid => rw [hcons, decodeUnicast_of_invalid hin hnone, fillSlot_eq_replied]; rfl
        case taken => rw [hcons, decodeUnicast_of_order hin hsome]

end Sys2Proof.Stated
end
